-- ==== Sys2Proof/Word.lean ====
section
/-! DEFINITION. The plain words of the block: port words, pin identities, line levels, the two axes. -/

namespace Sys2Proof

/-- A 32-bit port word: `A`, `B`, `Q` (rule R80), and the counters of width `CW = 32` (rule R7). -/
abbrev Word := BitVec 32

/-- A pin identity, `PIN_BITS = 8` bits, opaque: the block never does arithmetic on it (rules R7, R91). -/
abbrev Pin := BitVec 8

/-- A byte of the host's serial stream (rule R200). -/
abbrev Byte := BitVec 8

/-- The level of a digital line: `HIGH = 1`, `LOW = 0` (rule R10). -/
inductive Level where
  | low
  | high
  deriving DecidableEq, Repr

/-- The other level: FREERUN's `not OUT[p]` (rule R150) and the host's reversal (rule R187). -/
def Level.inv : Level → Level
  | .low => .high
  | .high => .low

/-- The two axes, `AXIS_Y = 0` and `AXIS_Z = 1` (rules R7, R20, R82). -/
inductive Axis where
  | y
  | z
  deriving DecidableEq, Repr

/-- The axis that is not `a` (rule R119's `b`). -/
def Axis.other : Axis → Axis
  | .y => .z
  | .z => .y

end Sys2Proof
end

