-- ==== Sys2Proof/Syntax.lean ====
section
/-! DEFINITION. The operation set (rule R93): one constructor per row of the opcode table. -/

namespace Sys2Proof

/-- What the host puts on the input ports for one operation: `CMD[3:0]`, `A[31:0]`, `B[31:0]` (rule R80). -/
structure Presentation where
  cmd : BitVec 4
  a : Word
  b : Word
  deriving DecidableEq, Repr

/-- The operations. Reserved operand bits stay in the operation, because the operation itself checks them first
(rules R95, R111): see log 14. Ports an operation ignores (rule R80) are no part of it. -/
inductive Instr where
  /-- SETUP `000a`: `A[7:0]`, `A[15:8]`, reserved `A[31:16]`, `B` (rules R83, R117). -/
  | setup (axis : Axis) (stepPin dirPin : Pin) (reservedBits : BitVec 16) (speed : Word)
  /-- ADVANCE `001a`: `revolutions = A` (rules R84, R122). -/
  | advance (axis : Axis) (revolutions : Word)
  /-- REARM `010a` (rules R85, R139). -/
  | rearm (axis : Axis)
  /-- DIR `011a`: `level = A[0]`, reserved `A[31:1]` (rules R86, R141). -/
  | dir (axis : Axis) (level : Level) (reservedBits : BitVec 31)
  /-- FREERUN `100a` (rules R85, R150). -/
  | freerun (axis : Axis)
  /-- SAMPLE `1010`: the whole of `A`, whose low `RAW_BITS` bits are `raw` and whose others are reserved; `RAW_BITS`
  is a parameter (rules R86, R160). -/
  | sample (operand : Word)
  /-- The reserved opcodes `11x`, with `x = CMD[1]` (rule R94). -/
  | reserved (x : BitVec 1) (axis : Axis)
  /-- SAMPLE with the axis bit set, `1011` (rule R95). -/
  | sampleAxisBit
  deriving DecidableEq, Repr

/-- The pseudo-operation `tick a`: ADVANCE with a zero word (rule R99). -/
def Instr.tick (a : Axis) : Instr := .advance a 0#32

end Sys2Proof
end

