-- ==== Sys2Proof/Config.lean ====
section
/-! DEFINITION. What an implementation fixes (rules R7, R8, R9) as one record of plain data, and the free values. -/

namespace Sys2Proof

/-- How one of the configuration functions of rule R9 is evaluated: exactly (the spec's default), or by the
platform's own arithmetic, of which the model assumes no more than rule R9 does. -/
inductive Evaluation where
  | exact
  | platform
  deriving DecidableEq, Repr

/-- How `HP_a` is evaluated (rules R7, R9, R118): by the spec's default formula exactly; by that formula in the
platform's own arithmetic, with no more assumed of it than rule R9 does; or, for a speed in linear units, by the
platform's own mapping through its lead or pitch, of which the spec gives no formula (log 10). -/
inductive HalfPeriodEvaluation where
  | exact
  | platform
  | linear
  deriving DecidableEq, Repr

/-- How the host rounds the third decimal of a coordinate, which rule R200 does not state: to nearest, by truncation,
or in a way of its own (log 20). -/
inductive DecimalRounding where
  | nearest
  | truncated
  | platform
  deriving DecidableEq, Repr

/-- A real constant as plain data: a rational number, or a real of which nothing is known, by a name (rule R162,
log 2). -/
inductive RealConstant where
  | rational (q : Rat)
  | named (name : Nat)
  deriving DecidableEq, Repr

/-- The fields of a finite NUM word: the exponent field is not 255 (rule R88). -/
structure NumFields where
  sign : Bool
  exponent : Fin 255
  fraction : BitVec 23
  deriving DecidableEq, Repr, Inhabited

/-- `FILTER_VARIANT` (rule R7): `exponential` is the only admitted value, `median` is refused (rule R171). -/
inductive FilterVariant where
  | exponential
  | median
  deriving DecidableEq, Repr

/-- The parameters of the documented host (rule R8), the pins it gives the axes (rule R199), the bytes rules R200 and
R201 leave open and the rounding rule R200 leaves open. That the centimetres are exact rationals is the model's choice
(log 36). No rule of the block reads them. -/
structure HostConfig where
  slicesPerRev : Nat
  marginCm : Rat
  layerRev : Word
  layerCm : Rat
  speedYRapid : Word
  speedYFine : Word
  dirDown : Level
  stepPinY : Pin
  dirPinY : Pin
  stepPinZ : Pin
  dirPinZ : Pin
  clearBytes : List Byte
  separatorByte : Byte
  newlineBytes : List Byte
  decimals : DecimalRounding
  deriving DecidableEq, Repr

/-- The parameters of the block (rule R7). A machine has one value of each for good: `State` carries this record and
no step changes it, so that a statement about every state is a statement about every choice of the parameters
(log 2). `absentPins` is the complement of `PINS` (rule R41). `calExact` belongs to constants that are not both
rational: the filter states where the calibration law has the value of a NUM word, each with the word (log 8). -/
structure Config where
  tw : Nat
  mprY : Nat
  mprZ : Nat
  alpha : Rat
  calA : RealConstant
  calB : RealConstant
  calExact : List (Rat × Word)
  rawBits : Nat
  absentPins : List Pin
  filter : FilterVariant
  targetEval : Evaluation
  halfPeriodEvalY : HalfPeriodEvaluation
  halfPeriodEvalZ : HalfPeriodEvaluation
  smoothEval : Evaluation
  msecBits : Nat
  host : HostConfig
  deriving DecidableEq, Repr

/-- `MPR[a]` (rule R7). -/
def Config.mpr (c : Config) : Axis → Nat
  | .y => c.mprY
  | .z => c.mprZ

/-- How the `HP_a` of an axis is evaluated: each axis has its own (rules R7, R118; log 10). -/
def Config.halfPeriodEval (c : Config) : Axis → HalfPeriodEvaluation
  | .y => c.halfPeriodEvalY
  | .z => c.halfPeriodEvalZ

/-- What rule R7 asks of the parameters: `TW >= 1`, `MPR[a]` positive, `0 < ALPHA <= 1`, a raw sample that fits the
port `A`; and `SLICES_PER_REV` positive (rule R8). -/
structure Config.Valid (c : Config) : Prop where
  tw_pos : 0 < c.tw
  mprY_pos : 0 < c.mprY
  mprZ_pos : 0 < c.mprZ
  alpha_pos : 0 < c.alpha
  alpha_le : c.alpha ≤ 1
  rawBits_le : c.rawBits ≤ 32
  slices_pos : 0 < c.host.slicesPerRev

/-- The host parameters of the spec's programs P3 and P4 (file 95), never a claim about a device (log 2). The spec
gives the clearing sequence, the separator's character and the newline's bytes no value, in its programs neither
(`N13`, `N30`): none, a hyphen and a line feed are the model's choice (log 37). -/
def HostConfig.vectors : HostConfig where
  slicesPerRev := 360
  marginCm := 5
  layerRev := 0x3C000000#32
  layerCm := mkRat 1 10
  speedYRapid := 0x44160000#32
  speedYFine := 0x41200000#32
  dirDown := .low
  stepPinY := 2#8
  dirPinY := 5#8
  stepPinZ := 3#8
  dirPinZ := 6#8
  clearBytes := []
  separatorByte := 0x2D#8
  newlineBytes := [0x0A#8]
  decimals := .nearest

/-- The parameters of the spec's test vectors (rule R7, last column; file 95), never a claim about a device
(log 2); the millisecond counter's width is the model's (log 4). -/
def Config.vectors : Config where
  tw := 32
  mprY := 200
  mprZ := 3200
  alpha := mkRat 1 10
  calA := .rational (-1)
  calB := .rational 3
  calExact := []
  rawBits := 10
  absentPins := []
  filter := .exponential
  targetEval := .exact
  halfPeriodEvalY := .exact
  halfPeriodEvalZ := .exact
  smoothEval := .exact
  msecBits := 32
  host := HostConfig.vectors

/-- Free values: the `n`-th value drawn. `Q` after every operation but SAMPLE (rule R92) and `Cal(f)` where the law
of rule R162 gives none (rule R165). -/
opaque Config.freeWord : Nat → Word

/-- The platform's own `|TargetOf|` where the exact product is no NUM value (rules R9, R114). -/
opaque Config.platformTarget : Word → Nat → Nat

/-- The platform's own half-period of an axis by the default formula, where the exact quotient is no NUM value (rules
R9, R118). -/
opaque Config.platformHalfPeriod : Axis → Word → Nat → Nat

/-- The platform's own half-period of an axis for a speed in linear units, from `speed` and `MPR[a]` (rule R118). -/
opaque Config.linearHalfPeriod : Axis → Word → Nat → Nat

/-- The real number a named constant is (rule R162). -/
opaque Config.namedReal : Nat → ℝ

/-- The real number a constant is. -/
noncomputable def RealConstant.value : RealConstant → ℝ
  | .rational q => (q : ℝ)
  | .named name => Config.namedReal name

/-- The NUM word the platform's own smoothing leaves, of `raw`, `prev` and `ALPHA` alone, where the exact result is no
NUM value (rules R9, R161, R164): the filter register holds a NUM word (rule R62). -/
opaque Config.platformSmooth : Nat → Rat → Rat → NumFields

/-- The calibration of a positive filter state, by `CAL_A` and `CAL_B`, where the exact result is no NUM value (rules
R9, R162; log 8). -/
opaque Config.calWord : RealConstant → RealConstant → Rat → Word

/-- `val(w)` of a non-finite word, which rule R88 leaves undefined. -/
opaque Config.undefinedValue : Word → Rat

/-- Whether the host's rounding of a number that lies between two thousandths, where it is open, goes to the upper one
(rule R200). -/
opaque Config.roundsUp : ℝ → Bool

/-- Whether the host writes a minus sign before a number that is not positive and rounds to zero (rule R200). -/
opaque Config.zeroSign : ℝ → Bool

end Sys2Proof
end

