-- ==== Sys2Proof/WellFormed.lean ====
section
/-! DEFINITION. Which operations are free of reserved codes and reserved operand bits (rules R94, R95). -/

namespace Sys2Proof

/-- An operation is well formed when presenting it is no breach of rules R94 and R95: its opcode is not reserved, its
reserved operand bits are zero, and SAMPLE's raw operand fits `RAW_BITS` and comes without the axis bit. The others
are the ones that fault with `F_ILLEGAL` (rule R221). -/
def Instr.wellFormed (c : Config) : Instr → Bool
  | .setup _ _ _ reservedBits _ => reservedBits == 0#16
  | .advance _ _ => true
  | .rearm _ => true
  | .dir _ _ reservedBits => reservedBits == 0#31
  | .freerun _ => true
  | .sample operand => decide (operand.toNat < 2 ^ c.rawBits)
  | .reserved _ _ => false
  | .sampleAxisBit => false

end Sys2Proof
end

