-- ==== Sys2Proof/Decode.lean ====
section
/-! DEFINITION. From the port words to an operation, and back (rules R80 to R96). The block stores no instruction and
has no byte order (rules R31, R60); a presentation as ONE number is the model's own packing, log 13. -/

namespace Sys2Proof

/-- Why a number is no presentation. -/
inductive DecodeError where
  /-- It has a bit above the last bit of port `B`. -/
  | aboveLastPort
  deriving DecidableEq, Repr

/-- `CMD[0]` as an axis (rule R82). -/
def axisOfBit (b : BitVec 1) : Axis := if b = 0#1 then .y else .z

/-- The axis bit of an axis (rule R82). -/
def bitOfAxis : Axis → BitVec 1
  | .y => 0#1
  | .z => 1#1

/-- A bit as a level: `1` is `HIGH` (rules R10, R86). -/
def levelOfBit (b : BitVec 1) : Level := if b = 0#1 then .low else .high

/-- The bit of a level (rule R10). -/
def bitOfLevel : Level → BitVec 1
  | .low => 0#1
  | .high => 1#1

/-- `opcode = CMD[3:1]` (rule R81). -/
def opcodeOf (cmd : BitVec 4) : BitVec 3 := cmd.extractLsb' 1 3

/-- `axis = CMD[0]` (rule R81). -/
def axisBitOf (cmd : BitVec 4) : BitVec 1 := cmd.extractLsb' 0 1

/-- The operation a presentation asks for, by the opcode map (rule R93) and the operand fields of rules R83 to R86.
Every presentation is some row of the map. -/
def decode (p : Presentation) : Instr :=
  if opcodeOf p.cmd = 0b000#3 then
    .setup (axisOfBit (axisBitOf p.cmd)) (p.a.extractLsb' 0 8) (p.a.extractLsb' 8 8) (p.a.extractLsb' 16 16) p.b
  else if opcodeOf p.cmd = 0b001#3 then .advance (axisOfBit (axisBitOf p.cmd)) p.a
  else if opcodeOf p.cmd = 0b010#3 then .rearm (axisOfBit (axisBitOf p.cmd))
  else if opcodeOf p.cmd = 0b011#3 then
    .dir (axisOfBit (axisBitOf p.cmd)) (levelOfBit (p.a.extractLsb' 0 1)) (p.a.extractLsb' 1 31)
  else if opcodeOf p.cmd = 0b100#3 then .freerun (axisOfBit (axisBitOf p.cmd))
  else if opcodeOf p.cmd = 0b101#3 then if axisBitOf p.cmd = 0#1 then .sample p.a else .sampleAxisBit
  else .reserved (p.cmd.extractLsb' 1 1) (axisOfBit (axisBitOf p.cmd))

/-- The command word `{opcode, axis}` (rule R81). -/
def commandWord (opcode : BitVec 3) (a : Axis) : BitVec 4 := opcode ++ bitOfAxis a

/-- The words of an operation, ignored ports zero (rules R80 to R86, R93). -/
def encode : Instr → Presentation
  | .setup a stepPin dirPin reservedBits speed =>
      { cmd := commandWord 0b000#3 a, a := reservedBits ++ dirPin ++ stepPin, b := speed }
  | .advance a revolutions => { cmd := commandWord 0b001#3 a, a := revolutions, b := 0#32 }
  | .rearm a => { cmd := commandWord 0b010#3 a, a := 0#32, b := 0#32 }
  | .dir a level reservedBits =>
      { cmd := commandWord 0b011#3 a, a := reservedBits ++ bitOfLevel level, b := 0#32 }
  | .freerun a => { cmd := commandWord 0b100#3 a, a := 0#32, b := 0#32 }
  | .sample operand => { cmd := commandWord 0b101#3 .y, a := operand, b := 0#32 }
  | .reserved x a => { cmd := commandWord ((0b11#2 : BitVec 2) ++ x) a, a := 0#32, b := 0#32 }
  | .sampleAxisBit => { cmd := commandWord 0b101#3 .z, a := 0#32, b := 0#32 }

/-- A number as a presentation: `CMD` in bits 3..0, `A` in bits 35..4, `B` in bits 67..36, as the opcode table numbers
a row's words (log 13). -/
def unpack (w : Nat) : Except DecodeError Presentation :=
  if w < 2 ^ 68 then
    .ok { cmd := BitVec.ofNat 4 w, a := BitVec.ofNat 32 (w / 2 ^ 4), b := BitVec.ofNat 32 (w / 2 ^ 36) }
  else .error .aboveLastPort

/-- The number of a presentation (log 13). -/
def pack (p : Presentation) : Nat := p.cmd.toNat + p.a.toNat * 2 ^ 4 + p.b.toNat * 2 ^ 36

/-- The operation the decoder reads from an instruction whose bits are `w`, of which the lowest `nbits` are given and
the rest are zero. -/
def decodeTableWord (nbits w : Nat) : Option Instr :=
  match unpack (w % 2 ^ nbits) with
  | .ok p => some (decode p)
  | .error _ => none

end Sys2Proof
end

