-- ==== Sys2Proof/Machine/State.lean ====
section
/-! DEFINITION. Everything the spec gives the machine, as plain data; the reasons a step stops; the state after reset. -/

namespace Sys2Proof.Machine

/-- The sub-state of an axis, in the order of its codes (rule R27). -/
inductive SubState where
  | idle
  | pulseHigh
  | pulseLow
  | done
  deriving DecidableEq, Repr

/-- The register record of one axis (rules R20 to R28). -/
structure MotorAxis where
  /-- One SETUP of the axis has completed since reset (rule R28). -/
  configured : Bool
  /-- The step output's identity (rule R21). -/
  stepPin : Pin
  /-- The direction output's identity (rule R22). -/
  dirPin : Pin
  /-- Microseconds, `TW` bits (rule R23). -/
  halfPeriod : Nat
  /-- The last-pulse timestamp, `TW` bits (rule R24). -/
  lastTime : Nat
  /-- `lastTime` holds a value: what rule R48 resets and rule R151 asks (log 6). -/
  timeHeld : Bool
  /-- The target step count of the current command (rule R25). -/
  target : Word
  /-- Steps issued so far (rule R26). -/
  issued : Word
  /-- The register `state[a]` (rule R27). -/
  sub : SubState
  deriving DecidableEq, Repr

/-- One write of an output line (rule R46): `time` is the `now` of the operation, absent for DIR. -/
structure Event where
  pin : Pin
  level : Level
  time : Option Nat
  deriving DecidableEq, Repr

/-- The phases of the documented host (rule R181). -/
inductive Phase where
  | ret
  | linear
  | rotate
  deriving DecidableEq, Repr

/-- The documented host's own state (rules R181, R183, R184, R199), environment of the block (rule R5). -/
structure ScanHost where
  /-- It has presented what it presents before its first tick (rule R199; log 18). -/
  booted : Bool
  phase : Phase
  /-- Centimetres, exact: the spec gives no number format (`N8`), the model's choice is log 36. -/
  height : Rat
  slice : Nat
  radius : Word
  rpmZ : Word
  dirLevelY : Level
  dirLevelZ : Level
  deriving DecidableEq, Repr

/-- An emitted point, before it is text (rule R194): `radius` is `R_CM - d`, `slice` of `total` gives the angle,
`height` is `z`. Its coordinates are `Point.x` and `Point.y`; that `radius` and `height` are exact is log 36. -/
structure Point where
  radius : Rat
  slice : Nat
  total : Nat
  height : Rat
  deriving DecidableEq, Repr

/-- What the host emits on the serial stream (rules R200, R201). -/
inductive SerialItem where
  | point (p : Point)
  | separator
  deriving DecidableEq, Repr

/-- What the outside does to the machine next (log 1). -/
inductive Input where
  /-- The host presents an operation (rule R80). -/
  | present (p : Presentation)
  /-- True time passes, in microseconds (rule R239, E1 to E3). -/
  | elapse (microseconds : Nat)
  /-- True time passes until `USEC` reads the value given, modulo `2^TW`: the `@<t>` of a trace (rule R98). -/
  | waitUntil (usec : Nat)
  /-- The limit switch lines, top and bottom (rule R42). -/
  | limits (top bottom : Level)
  /-- The analog channel's raw sample (rule R42). -/
  | adc (raw : Word)
  /-- The operator writes `R_CM` (rule R183). -/
  | setRadius (value : Word)
  /-- The operator writes `RPM_Z` (rule R183). -/
  | setRpm (value : Word)
  /-- The documented host's operations before its first tick (rule R199). -/
  | boot
  /-- One tick of the documented host (rule R185). -/
  | tick
  /-- The documented host turns `RPM_Z` into a SETUP of the Z axis, if no command is in flight on it (rules R183, R196,
  R279). -/
  | rpmSetup
  /-- Power off and on (rule R250): the counters then start anywhere (rule R48). -/
  | powerCycle (time msecOrigin : Nat)
  deriving DecidableEq, Repr

/-- The whole machine: the block, the counters and input lines it stands at, the documented host, the parameters, and
the model's own bookkeeping. -/
structure State where
  /-- The Y axis record (rule R20). -/
  axisY : MotorAxis
  /-- The Z axis record (rule R20). -/
  axisZ : MotorAxis
  /-- The filter has had its first sample (rule R39). -/
  primed : Bool
  /-- The previous filtered value (rule R38). In the platform's evaluation of `Smooth` it is a NUM value (rule R62); in the
  exact one, decision D9's default, the exact number, held unrounded (log 38). -/
  filtered : Rat
  /-- The output lines `OUT` (rule R41): the lines at `HIGH`, rising; all others are `LOW` (log 15). -/
  out : List Pin
  /-- The event history `EV` (rule R46), oldest first. -/
  ev : List Event
  /-- The input ports `CMD`, `A`, `B` (rule R80), as last driven. -/
  ports : Presentation
  /-- The result port `Q` (rules R80, R92). -/
  q : Word
  /-- True time in microseconds (rule R239, E1); `USEC` is this modulo `2^TW` (rule R238). -/
  time : Nat
  /-- Where the millisecond counter stands against true time (rule R240, log 4). -/
  msecOrigin : Nat
  /-- The top limit switch line, active-low (rule R42). -/
  limTop : Level
  /-- The bottom limit switch line, active-low (rule R42). -/
  limBot : Level
  /-- The analog channel (rule R42). -/
  adc : Word
  /-- The documented host (rule R181). -/
  host : ScanHost
  /-- What the host has emitted (rules R200, R201), oldest first. -/
  serial : List SerialItem
  /-- The parameters (rules R7, R8); no step changes them. -/
  config : Config
  /-- The model's own: how many free values have been drawn (log 7). -/
  draws : Nat
  /-- The model's own: the inputs still to come, oldest first (log 1). -/
  inbox : List Input
  deriving DecidableEq, Repr

/-- Why a step stops. A fault has changed nothing (rules R11 (d), R220); it records the words on the ports (rule
R221). All of them are safe: the spec gives an operation that faults no effect, and the model stops there. -/
inductive Fault where
  /-- `F_ILLEGAL`, code 1: raised by SETUP, DIR, SAMPLE with reserved operand bits, by the reserved opcodes and by
  SAMPLE with the axis bit (rules R94, R95). Safe. -/
  | illegal (words : Presentation)
  /-- `F_OPERAND`, code 2: raised by SETUP and ADVANCE (rule R224). Safe. -/
  | operand (words : Presentation)
  /-- `F_UNCONFIGURED`, code 3: raised by ADVANCE, REARM, DIR, FREERUN (rule R222). Safe. -/
  | unconfigured (words : Presentation)
  /-- `F_PROTOCOL`, code 4: raised by FREERUN (rule R150). Safe. -/
  | protocol (words : Presentation)
  /-- `F_UNCONFIGURED`, code 3: raised by the host's read of `ST[a]` or `DONE[a]` of an axis that has had no SETUP
  (rule R32; log 12). Safe. -/
  | statusRead (axis : Axis)
  /-- The fault `cause` of an operation or a status read inside a host tick, boot or re-setup; `reached` is the state
  it finds, in which every earlier operation of that step has had all of its effect and the faulting one none (rule
  R233; log 39). Safe. -/
  | inHost (reached : State) (cause : Fault)
  deriving DecidableEq, Repr

/-- Why an operation has no meaning. -/
inductive Refusal where
  /-- An operation that is not modelled; raised by `exec` alone. Safe. -/
  | notModelled (mnemonic : String)
  /-- Raised by SAMPLE when the configuration asks for the median filter, which the spec refuses (rule R171). Safe. -/
  | medianVariant
  /-- The refusal `cause` of an operation inside a host tick; `reached` is the state it finds (log 39). Safe. -/
  | inHost (reached : State) (cause : Refusal)
  deriving DecidableEq, Repr

/-- An axis after reset (rule R48): unconfigured, its registers holding no value; the values here are the model's
(log 5), and no operation reads them. -/
def MotorAxis.reset : MotorAxis where
  configured := false
  stepPin := 0#8
  dirPin := 0#8
  halfPeriod := 0
  lastTime := 0
  timeHeld := false
  target := 0#32
  issued := 0#32
  sub := .idle

/-- The documented host after reset (rules R48, R181, R183): Return, 0, 0, 14.0 and 10.0. -/
def ScanHost.reset : ScanHost where
  booted := false
  phase := .ret
  height := 0
  slice := 0
  radius := 0x41600000#32
  rpmZ := 0x41200000#32
  dirLevelY := .low
  dirLevelZ := .low

/-- The machine right after power-on (rules R48, R250, R251), with parameters `c` and the counters wherever they
stand: rule R48 leaves `USEC` at any value. -/
def State.resetWith (c : Config) (time msecOrigin : Nat) : State where
  axisY := MotorAxis.reset
  axisZ := MotorAxis.reset
  primed := false
  filtered := 0
  out := []
  ev := []
  ports := { cmd := 0#4, a := 0#32, b := 0#32 }
  q := 0#32
  time := time
  msecOrigin := msecOrigin
  limTop := .high
  limBot := .high
  adc := 0#32
  host := ScanHost.reset
  serial := []
  config := c
  draws := 0
  inbox := []

/-- The machine right after reset, with the parameters of the spec's vectors and the counters at 0 (log 2, log 3). -/
def State.reset : State := State.resetWith Config.vectors 0 0

end Sys2Proof.Machine
end

