-- ==== Sys2Proof/Machine/Num.lean ====
section
/-! DEFINITION. The numeric domain `NUM`: binary32 words and the exact rationals they denote (rules R9, R88, R98). -/

namespace Sys2Proof.Machine

/-- The sign bit `s = w[31]` (rule R88). -/
def numSign (w : Word) : Bool := w.getLsbD 31

/-- The exponent field `e = w[30:23]` (rule R88). -/
def numExponent (w : Word) : Nat := (w.extractLsb' 23 8).toNat

/-- The fraction field `f = w[22:0]` (rule R88). -/
def numFraction (w : Word) : Nat := (w.extractLsb' 0 23).toNat

/-- Rule R88: `e = 255` is non-finite, an infinity or a NaN. -/
def numFinite (w : Word) : Bool := numExponent w != 255

/-- The integer multiple of the exponent's unit that a finite word is: `2^23 + f`, or `f` where `e = 0` (rule R88). -/
def numMantissa (w : Word) : Nat := if numExponent w = 0 then numFraction w else 2 ^ 23 + numFraction w

/-- `|val(w)|`: the mantissa times `2^(e - 150)`, with `e = 0` read as `1` (rule R88). -/
def numMagnitude (w : Word) : Rat :=
  let e := max (numExponent w) 1
  if 150 ≤ e then mkRat (numMantissa w * 2 ^ (e - 150) : Nat) 1 else mkRat (numMantissa w : Nat) (2 ^ (150 - e))

/-- `val(w)` of a finite word, an exact rational (rule R88). -/
def numVal (w : Word) : Rat := if numSign w then -numMagnitude w else numMagnitude w

/-- `val(w)`, with a free value where rule R88 leaves it undefined (log 22). -/
def numValue (w : Word) : Rat := if numFinite w then numVal w else Config.undefinedValue w

/-- The finite NUM word of its fields (rule R88). -/
def wordOfFields (x : NumFields) : Word := BitVec.ofBool x.sign ++ (BitVec.ofNat 8 x.exponent.val ++ x.fraction)

/-- `val(w) = 0`: both zero words, treated alike everywhere (rule R88). -/
def numIsZero (w : Word) : Bool := w.extractLsb' 0 31 == 0#31

/-- `trunc(n / d)`: the integer nearest to the quotient between it and zero (rule R11 (f)). -/
def truncQuotient (n : Int) (d : Nat) : Int := n.tdiv d

/-- The quotient `n / d` rounded to the nearest integer, ties to even. -/
def roundHalfEven (n d : Nat) : Nat :=
  let q := n / d
  let r := n % d
  if d < 2 * r then q + 1 else if 2 * r < d then q else if q % 2 = 0 then q else q + 1

/-- Whether `2^k <= n / d`, for an exponent `k` of either sign. -/
def powerBelow (n d : Nat) (k : Int) : Bool :=
  decide (d * 2 ^ k.toNat ≤ n * 2 ^ (-k).toNat)

/-- The greatest `k` with `2^k <= n / d`, for positive `n` and `d`. -/
def floorLog2 (n d : Nat) : Int :=
  let k : Int := (Nat.log2 n : Int) - (Nat.log2 d : Int)
  if powerBelow n d k then k else k - 1

/-- The bits below the sign of the NUM word nearest to `n / d`, ties to even; the infinity's where it is too large
(rules R88, R98). -/
def nearestMagnitude (n d : Nat) : Nat :=
  if n = 0 then 0
  else
    let k := max (floorLog2 n d) (-126)
    let unit := k - 23
    let m := roundHalfEven (n * 2 ^ (-unit).toNat) (d * 2 ^ unit.toNat)
    min ((k + 126).toNat * 2 ^ 23 + m) 0x7F800000

/-- The nearest NUM word of a rational, ties to even (rule R98). -/
def nearestNum (q : Rat) : Word :=
  BitVec.ofNat 32 (nearestMagnitude q.num.natAbs q.den + (if q.num < 0 then 2 ^ 31 else 0))

/-- Whether a rational is the value of a NUM word: "representable in `NUM`" (rule R9). -/
def representable (q : Rat) : Bool := numFinite (nearestNum q) && decide (numVal (nearestNum q) = q)

end Sys2Proof.Machine
end

