-- ==== Sys2Proof/Machine/Calibration.lean ====
section
/-! DEFINITION. The calibration `Cal` (rules R9, R162): its law over the reals, the exact value where that is a NUM
value, and the free word elsewhere. -/

namespace Sys2Proof.Machine

/-- The law `10^CAL_B * f^CAL_A`, a real number (rule R162). It is what `calPositive` is held against; no step computes
it. -/
noncomputable def calLaw (c : Config) (f : Rat) : ℝ := (10 : ℝ) ^ c.calB.value * (f : ℝ) ^ c.calA.value

/-- A power of a positive fraction as numerator and denominator, for an exponent of either sign. -/
def powParts (n d : Nat) (k : Int) : Nat × Nat :=
  if 0 ≤ k then (n ^ k.toNat, d ^ k.toNat) else (d ^ (-k).toNat, n ^ (-k).toNat)

/-- The greatest number `r + k'` with `k' < 2^bits` whose `n`-th power is at most `y`, a bit at a time. -/
def rootBits (n y : Nat) : Nat → Nat → Nat
  | 0, r => r
  | bits + 1, r => rootBits n y bits (if (r + 2 ^ bits) ^ n ≤ y then r + 2 ^ bits else r)

/-- The whole part of the `n`-th root of `y`, for positive `n`. -/
def wholeRoot (n y : Nat) : Nat := rootBits n y (Nat.log2 y + 1) 0

/-- `(10^b * f^a)^n` exactly, for positive `f` and `n` the product of the exponents' denominators (rule R162). -/
def rationalCalPower (a b f : Rat) : Rat :=
  let p10 := powParts 10 1 (b.num * a.den)
  let pf := powParts f.num.toNat f.den (a.num * b.den)
  mkRat (p10.1 * pf.1 : Nat) (p10.2 * pf.2)

/-- `10^b * f^a` for rational exponents and positive `f`, where it is a rational number; none where it is not (rule
R162). -/
def rationalCal (a b f : Rat) : Option Rat :=
  let n := a.den * b.den
  let y := rationalCalPower a b f
  let num := wholeRoot n y.num.toNat
  let den := wholeRoot n y.den
  if num ^ n = y.num.toNat ∧ den ^ n = y.den then some (mkRat (num : Nat) den) else none

/-- The word of a rational number that is a NUM value. -/
def numWordOf (x : Rat) : Option Word := if representable x then some (nearestNum x) else none

/-- The filter state to look up for constants that are not both rational: the law is one number for all of them where
`CAL_A` is 0. -/
def calKey (c : Config) (f : Rat) : Rat := if c.calA = .rational 0 then 1 else f

/-- The word of the law's value where that is a NUM value: computed for rational constants, else what the parameter
record says (log 8). -/
def exactCal (c : Config) (f : Rat) : Option Word :=
  match c.calA, c.calB with
  | .rational a, .rational b => (rationalCal a b f).bind numWordOf
  | .rational _, .named _ => c.calExact.lookup (calKey c f)
  | .named _, .rational _ => c.calExact.lookup (calKey c f)
  | .named _, .named _ => c.calExact.lookup (calKey c f)

/-- The word `Cal(f)` for `f > 0` (rules R9, R162): of the exact value where that is a NUM value, else a word of
`CAL_A`, `CAL_B` and `f` of which nothing is known (log 8). -/
def calPositive (c : Config) (f : Rat) : Word :=
  match exactCal c f with
  | some w => w
  | none => Config.calWord c.calA c.calB f

/-- Rule R9 of the parameters: for constants that are not both rational, `calExact` gives the law's value wherever that
is a NUM value. Such a list exists for every pair of constants (a `CAL_A` of 0 given as the rational it is): the law
takes each of the finitely many values of NUM words at one filter state at most, or is one number. -/
def CalExactOk (c : Config) : Prop :=
  (∃ a b, c.calA = .rational a ∧ c.calB = .rational b) ∨
    ∀ (f : Rat) (w : Word), 0 < f → numFinite w = true → (numVal w : ℝ) = calLaw c f →
      ∃ v, c.calExact.lookup (calKey c f) = some v ∧ numFinite v = true ∧ numVal v = numVal w

/-- The property of `Cal` rule R162 lets a claim assume, over the filter states the claim is about: strictly decreasing
for `CAL_A < 0`, strictly increasing for `CAL_A > 0`. It cannot hold over all positive rationals, which are more than
the words of `NUM`; that it holds wherever the law's value is a NUM value needs no assuming. -/
def CalMonotoneOn (c : Config) (states : Set Rat) : Prop :=
  ∀ f ∈ states, ∀ g ∈ states, 0 < f → f < g →
    (c.calA.value < 0 → numVal (calPositive c g) < numVal (calPositive c f)) ∧
    (0 < c.calA.value → numVal (calPositive c f) < numVal (calPositive c g))

/-- The positive filter states at which the law's value is a NUM value. -/
def calExactStates (c : Config) : Set Rat :=
  {f | 0 < f ∧ ∃ w, numFinite w = true ∧ (numVal w : ℝ) = calLaw c f}

end Sys2Proof.Machine
end

