-- ==== Sys2Proof/Machine/Ops.lean ====
section
/-! DEFINITION. The named operations over registers, output lines, clocks and result port; raising a fault. -/

namespace Sys2Proof.Machine

/-- What one operation, one step or one tick answers. -/
abbrev Result := Host.Outcome State Fault Refusal

/-- The register record of axis `a` (rule R20). -/
def State.axis (s : State) : Axis → MotorAxis
  | .y => s.axisY
  | .z => s.axisZ

/-- Write the register record of axis `a`; the other axis is untouched (rule R20). -/
def State.setAxis (s : State) (a : Axis) (m : MotorAxis) : State :=
  match a with
  | .y => { s with axisY := m }
  | .z => { s with axisZ := m }

/-- Raising a fault (rules R11 (d), R220, R221, R233): nothing is written, nothing saved, control goes nowhere; the
fault holds the words on the ports. There is no return from one (rule R234). -/
def raise (cause : Presentation → Fault) (s : State) : Result := .fault (cause s.ports)

/-- A stop inside a step of several operations, with the state the stopping operation finds: every earlier operation has
had all of its effect, the stopping one none (rule R233; log 39). -/
def stopIn (s : State) (r : Result) : Result :=
  match r with
  | .next t => .next t
  | .fault c => .fault (.inHost s c)
  | .refused c => .refused (.inHost s c)

/-- One thing after another: a stop ends it. -/
def andThen (r : Result) (f : State → Result) : Result :=
  match r with
  | .next s => f s
  | .fault c => .fault c
  | .refused c => .refused c

/-- `ReadUsec()` (rules R11 (e), R238, R239): true time modulo `2^TW`. -/
def readUsec (s : State) : Nat := s.time % 2 ^ s.config.tw

/-- The millisecond counter, which no operation reads (rule R240, log 4). -/
def readMsec (s : State) : Nat := (s.time + s.msecOrigin) / 1000 % 2 ^ s.config.msecBits

/-- `elapsed(t1, t0) = (t1 - t0) mod 2^TW` (rules R12, R112). -/
def elapsed (tw t1 t0 : Nat) : Nat := (((t1 : Int) - (t0 : Int)) % ((2 ^ tw : Nat) : Int)).toNat

/-- The time test `elapsed(now, lastTime[a]) >= halfPeriod[a]` (rule R113). -/
def timeTest (s : State) (a : Axis) (now : Nat) : Bool :=
  decide ((s.axis a).halfPeriod ≤ elapsed s.config.tw now (s.axis a).lastTime)

/-- The level of line `p` among the lines at `HIGH` (rule R41). -/
def lineLevel (lines : List Pin) (p : Pin) : Level := if lines.contains p then .high else .low

/-- Put `p` among the lines at `HIGH`, keeping them rising. -/
def raiseLine (p : Pin) : List Pin → List Pin
  | [] => [p]
  | x :: rest => if p.toNat < x.toNat then p :: x :: rest else if p = x then x :: rest else x :: raiseLine p rest

/-- Take `p` from the lines at `HIGH`. -/
def lowerLine (p : Pin) (lines : List Pin) : List Pin := lines.filter (fun x => x != p)

/-- `lines` with line `p` at `level`. -/
def setLine (p : Pin) (level : Level) (lines : List Pin) : List Pin :=
  match level with
  | .high => raiseLine p lines
  | .low => lowerLine p lines

/-- The canonical form of the lines at `HIGH`: strictly rising (log 15). -/
def linesWf : List Pin → Bool
  | [] => true
  | [_] => true
  | x :: y :: rest => decide (x.toNat < y.toNat) && linesWf (y :: rest)

/-- The level `OUT[p]` (rule R41). -/
def State.line (s : State) (p : Pin) : Level := lineLevel s.out p

/-- `OUT[p] <- level`, which also appends the event, whether or not the level changes (rules R11 (b), R46). -/
def writeLine (p : Pin) (level : Level) (time : Option Nat) (s : State) : State :=
  { s with out := setLine p level s.out, ev := s.ev ++ [{ pin := p, level := level, time := time }] }

/-- `Q` as any value: the next free value (rules R92, R165; log 7). -/
def drawResult (s : State) : State := { s with q := Config.freeWord s.draws, draws := s.draws + 1 }

/-- An operation without a result completes: `Q` is unspecified after it (rule R92). -/
def complete (s : State) : Result := .next (drawResult s)

end Sys2Proof.Machine
end

