-- ==== Sys2Proof/Machine/Operands.lean ====
section
/-! DEFINITION. What the operand words mean: pins, speed, revolutions, raw sample; the configuration functions of
rule R9 over them. -/

namespace Sys2Proof.Machine

/-- The pin exists on the platform: it is in `PINS` (rule R41). -/
def pinExists (c : Config) (p : Pin) : Bool := !c.absentPins.contains p

/-- Neither pin is one that axis `m`, if configured, holds (rule R119). -/
def pinsFreeOf (m : MotorAxis) (stepPin dirPin : Pin) : Bool :=
  !m.configured || (stepPin != m.stepPin && stepPin != m.dirPin && dirPin != m.stepPin && dirPin != m.dirPin)

/-- `PinsOk(a, stepPin, dirPin)` (rule R119). -/
def pinsOk (s : State) (a : Axis) (stepPin dirPin : Pin) : Bool :=
  pinExists s.config stepPin && pinExists s.config dirPin && stepPin != dirPin &&
    pinsFreeOf (s.axis a.other) stepPin dirPin

/-- The spec's default `HP_a(speed)`, `trunc(30_000_000 / (val(speed) * MPR[a]))` for a positive speed (rule R118). -/
def exactHalfPeriod (mpr : Nat) (speed : Word) : Nat :=
  30000000 * (numVal speed).den / ((numVal speed).num.toNat * mpr)

/-- The exact quotient `30_000_000 / (val(speed) * MPR[a])` of a positive speed is a NUM value, so that every
evaluation of the default formula agrees with it (rule R9, log 32). -/
def quotientRepresentable (mpr : Nat) (speed : Word) : Bool :=
  representable (mkRat (30000000 * (numVal speed).den : Nat) ((numVal speed).num.toNat * mpr))

/-- `HP_a(speed)` of a positive speed (rules R9, R118; log 10). -/
def positiveHalfPeriod (c : Config) (a : Axis) (speed : Word) : Nat :=
  match c.halfPeriodEval a with
  | .exact => exactHalfPeriod (c.mpr a) speed
  | .platform =>
    if quotientRepresentable (c.mpr a) speed then exactHalfPeriod (c.mpr a) speed
    else Config.platformHalfPeriod a speed (c.mpr a)
  | .linear => Config.linearHalfPeriod a speed (c.mpr a)

/-- `HP_a(speed)` (rules R7, R9, R118): a total function of a positive speed, undefined for one that is not positive,
whoever evaluates it. -/
def halfPeriodOf (c : Config) (a : Axis) (speed : Word) : Option Nat :=
  if (numVal speed).num ≤ 0 then none else some (positiveHalfPeriod c a speed)

/-- The half-period SETUP takes: defined and in `1 .. 2^TW - 1` (rule R117). -/
def legalHalfPeriod (c : Config) (a : Axis) (speed : Word) : Option Nat :=
  match halfPeriodOf c a speed with
  | some hp => if 1 ≤ hp ∧ hp < 2 ^ c.tw then some hp else none
  | none => none

/-- `trunc(val(r) * MPR[a])`, the product exact (rules R9, R114). -/
def exactTarget (mpr : Nat) (r : Word) : Int := truncQuotient ((numVal r).num * (mpr : Int)) (numVal r).den

/-- The exact product `val(r) * MPR[a]` is a NUM value, so that every evaluation agrees with it (rule R9, log 32). -/
def productRepresentable (mpr : Nat) (r : Word) : Bool :=
  representable (mkRat ((numVal r).num * (mpr : Int)) (numVal r).den)

/-- The target another arithmetic gives, of the sign rule R114 asks (log 32). -/
def platformTarget (mpr : Nat) (r : Word) : Int :=
  if numSign r then -(Config.platformTarget r mpr : Int) else (Config.platformTarget r mpr : Int)

/-- `TargetOf(r, MPR[a])` (rules R9, R114); 0 when `val(r) = 0` (rule R122). -/
def targetOf (c : Config) (a : Axis) (r : Word) : Int :=
  if numIsZero r then 0
  else
    match c.targetEval with
    | .exact => exactTarget (c.mpr a) r
    | .platform => if productRepresentable (c.mpr a) r then exactTarget (c.mpr a) r else platformTarget (c.mpr a) r

/-- The target fits its register: at most `2^31 - 1` (rule R115). -/
def targetFits (c : Config) (a : Axis) (r : Word) : Bool := decide (targetOf c a r ≤ 2 ^ 31 - 1)

/-- A command: `val(r) != 0` and a target above zero (rule R124). -/
def isCommand (c : Config) (a : Axis) (r : Word) : Bool := !numIsZero r && decide (0 < targetOf c a r)

/-- `A[31:RAW_BITS]` is zero (rule R95). -/
def rawFits (c : Config) (operand : Word) : Bool := decide (operand.toNat < 2 ^ c.rawBits)

/-- `ALPHA * raw + (1 - ALPHA) * prev` over the exact numbers (rule R161). -/
def exactSmooth (alpha : Rat) (raw : Nat) (prev : Rat) : Rat := alpha * (raw : Rat) + (1 - alpha) * prev

/-- `Smooth(raw, prev)` (rules R9, R161); the platform's own is always a NUM value (rules R62, R164). -/
def smooth (c : Config) (raw : Nat) (prev : Rat) : Rat :=
  match c.smoothEval with
  | .exact => exactSmooth c.alpha raw prev
  | .platform =>
    if representable (exactSmooth c.alpha raw prev) then exactSmooth c.alpha raw prev
    else numVal (wordOfFields (Config.platformSmooth raw prev c.alpha))

end Sys2Proof.Machine
end

