-- ==== Sys2Proof/Machine/Flags.lean ====
section
/-! DEFINITION. The status ports `ST[a]` and `DONE[a]` (rules R27, R32, R137), the fault codes (rule R221), and the
completion test (rule R116). There are no condition codes (rule R32). -/

namespace Sys2Proof.Machine

/-- The code of a sub-state (rule R27). -/
def subStateCode : SubState → BitVec 2
  | .idle => 0b00#2
  | .pulseHigh => 0b01#2
  | .pulseLow => 0b10#2
  | .done => 0b11#2

/-- The host's read of the register behind `ST[a]`: it has no side effect and faults on an unconfigured axis (rules
R32, R64, R137; log 12). -/
def readStatus (a : Axis) (s : State) : Except Fault SubState :=
  if (s.axis a).configured then .ok (s.axis a).sub else .error (.statusRead a)

/-- The port `ST[a][1:0]` (rule R32). -/
def readSt (a : Axis) (s : State) : Except Fault (BitVec 2) :=
  match readStatus a s with
  | .ok sub => .ok (subStateCode sub)
  | .error f => .error f

/-- The port `DONE[a] = (state[a] == Done)` (rule R32). -/
def readDone (a : Axis) (s : State) : Except Fault Bool :=
  match readStatus a s with
  | .ok sub => .ok (decide (sub = .done))
  | .error f => .error f

/-- The code of a fault (rule R221). -/
def faultCode : Fault → Nat
  | .illegal _ => 1
  | .operand _ => 2
  | .unconfigured _ => 3
  | .protocol _ => 4
  | .statusRead _ => 3
  | .inHost _ cause => faultCode cause

/-- The completion test `issued[a] >= target[a]`, unsigned (rule R116). -/
def commandComplete (issued target : Word) : Bool := decide (target.toNat ≤ issued.toNat)

end Sys2Proof.Machine
end

