-- ==== Sys2Proof/Machine/Filter.lean ====
section
/-! DEFINITION. The Distance Sensor Filter (file 42 of the spec). -/

namespace Sys2Proof.Machine

/-- The filter state after a raw sample (rules R160, R163): the first is taken as it is, the others are smoothed. -/
def nextFiltered (s : State) (raw : Nat) : Rat :=
  if s.primed then smooth s.config raw s.filtered else (raw : Rat)

/-- `Q <- Cal(filtered)` (rules R162, R165): any value where the filter state is not positive. -/
def calibrate (s : State) : State :=
  if 0 < s.filtered.num then { s with q := calPositive s.config s.filtered } else drawResult s

/-- SAMPLE (rules R160 to R165). A configuration that asks for the median filter is refused, as rule
R171 asks; that SAMPLE alone refuses it, after its check of reserved bits, is the model's choice (log 16). -/
def execSample (operand : Word) (s : State) : Result :=
  if !rawFits s.config operand then raise .illegal s
  else
    match s.config.filter with
    | .median => .refused .medianVariant
    | .exponential => .next (calibrate { s with filtered := nextFiltered s operand.toNat, primed := true })

end Sys2Proof.Machine
end

