-- ==== Sys2Proof/Machine/Freerun.lean ====
section
/-! DEFINITION. The rapid free-run drive (file 41 of the spec). -/

namespace Sys2Proof.Machine

/-- FREERUN's toggle (rules R150, R154 (b)): the line's current level, inverted, timed and recorded. -/
def toggleStepLine (a : Axis) (now : Nat) (s : State) : State :=
  (writeLine (s.axis a).stepPin (s.line (s.axis a).stepPin).inv (some now) s).setAxis a
    { s.axis a with lastTime := now, timeHeld := true }

/-- FREERUN on a configured Idle axis (rules R150, R151): the first use of an axis whose `lastTime` holds no value
records the time in place of a toggle. -/
def freerunAxis (a : Axis) (now : Nat) (s : State) : State :=
  if !(s.axis a).timeHeld then s.setAxis a { s.axis a with lastTime := now, timeHeld := true }
  else if timeTest s a now then toggleStepLine a now s
  else s

/-- FREERUN (rules R150 to R154). -/
def execFreerun (a : Axis) (s : State) : Result :=
  if !(s.axis a).configured then raise .unconfigured s
  else if (s.axis a).sub != .idle then raise .protocol s
  else complete (freerunAxis a (readUsec s) s)

end Sys2Proof.Machine
end

