-- ==== Sys2Proof/Machine/Motor.lean ====
section
/-! DEFINITION. The Motor Driver FSM operations: SETUP, ADVANCE, REARM, DIR (file 40 of the spec). -/

namespace Sys2Proof.Machine

/-- SETUP's writes (rule R117); `lastTime`, `target` and every line keep what they hold (rule R120). -/
def configureAxis (m : MotorAxis) (stepPin dirPin : Pin) (hp : Nat) : MotorAxis :=
  { m with
    stepPin := stepPin, dirPin := dirPin, halfPeriod := hp, sub := .idle, issued := 0#32, configured := true }

/-- SETUP (rules R111, R117 to R120). -/
def execSetup (a : Axis) (stepPin dirPin : Pin) (reservedBits : BitVec 16) (speed : Word) (s : State) : Result :=
  if reservedBits != 0#16 then raise .illegal s
  else if !numFinite speed then raise .operand s
  else if !pinsOk s a stepPin dirPin then raise .operand s
  else
    match legalHalfPeriod s.config a speed with
    | none => raise .operand s
    | some hp => complete (s.setAxis a (configureAxis (s.axis a) stepPin dirPin hp))

/-- `AcceptCommand(a, t, now)` (rule R124); the sentinel is 0. -/
def acceptCommand (a : Axis) (t : Int) (now : Nat) (s : State) : State :=
  s.setAxis a
    { s.axis a with
      target := BitVec.ofNat 32 t.toNat, issued := 0#32, lastTime := now, timeHeld := true, sub := .pulseHigh }

/-- `HighEdgeIfDue(a, now)` (rule R126). -/
def highEdgeIfDue (a : Axis) (now : Nat) (s : State) : State :=
  if timeTest s a now then
    (writeLine (s.axis a).stepPin .high (some now) s).setAxis a
      { s.axis a with lastTime := now, timeHeld := true, sub := .pulseLow }
  else s

/-- `LowEdgeIfDue(a, now)` (rules R116, R127); the comparison uses the incremented count. -/
def lowEdgeIfDue (a : Axis) (now : Nat) (s : State) : State :=
  if timeTest s a now then
    (writeLine (s.axis a).stepPin .low (some now) s).setAxis a
      { s.axis a with
        lastTime := now, timeHeld := true, issued := (s.axis a).issued + 1#32,
        sub := if commandComplete ((s.axis a).issued + 1#32) (s.axis a).target then .done else .pulseHigh }
  else s

/-- ADVANCE on a configured axis, by sub-state (rules R122 to R128). -/
def advanceAxis (a : Axis) (r : Word) (now : Nat) (s : State) : State :=
  match (s.axis a).sub with
  | .idle => if isCommand s.config a r then acceptCommand a (targetOf s.config a r) now s else s
  | .pulseHigh => highEdgeIfDue a now s
  | .pulseLow => lowEdgeIfDue a now s
  | .done => s.setAxis a { s.axis a with sub := .idle }

/-- ADVANCE (rules R111, R122): the operand is checked in every sub-state and before the axis (rules R89, R115). -/
def execAdvance (a : Axis) (r : Word) (s : State) : Result :=
  if !numFinite r then raise .operand s
  else if !targetFits s.config a r then raise .operand s
  else if !(s.axis a).configured then raise .unconfigured s
  else complete (advanceAxis a r (readUsec s) s)

/-- REARM (rules R139, R140). -/
def execRearm (a : Axis) (s : State) : Result :=
  if !(s.axis a).configured then raise .unconfigured s
  else complete (s.setAxis a { s.axis a with sub := .idle })

/-- DIR (rules R141, R142): it reads no clock, so its event has no time. -/
def execDir (a : Axis) (level : Level) (reservedBits : BitVec 31) (s : State) : Result :=
  if reservedBits != 0#31 then raise .illegal s
  else if !(s.axis a).configured then raise .unconfigured s
  else complete (writeLine (s.axis a).dirPin level none s)

end Sys2Proof.Machine
end

