-- ==== Sys2Proof/Machine/Reserved.lean ====
section
/-! DEFINITION. The reserved encodings: a fault and no effect (rules R94, R95). -/

namespace Sys2Proof.Machine

/-- A reserved opcode (rule R94). -/
def execReserved (_x : BitVec 1) (_a : Axis) (s : State) : Result := raise .illegal s

/-- SAMPLE with the axis bit set (rule R95). -/
def execSampleAxisBit (s : State) : Result := raise .illegal s

end Sys2Proof.Machine
end

