-- ==== Sys2Proof/Machine/Dispatch.lean ====
section
/-! DEFINITION. One arm per operation. -/

namespace Sys2Proof.Machine

def exec (i : Instr) (s : State) : Host.Outcome State Fault Refusal :=
  match i with
  | .setup a stepPin dirPin reservedBits speed => Sys2Proof.Machine.execSetup a stepPin dirPin reservedBits speed s
  | .advance a r => Sys2Proof.Machine.execAdvance a r s
  | .rearm a => Sys2Proof.Machine.execRearm a s
  | .dir a level reservedBits => Sys2Proof.Machine.execDir a level reservedBits s
  | .freerun a => Sys2Proof.Machine.execFreerun a s
  | .sample operand => Sys2Proof.Machine.execSample operand s
  | .reserved x a => Sys2Proof.Machine.execReserved x a s
  | .sampleAxisBit => Sys2Proof.Machine.execSampleAxisBit s

end Sys2Proof.Machine
end

