-- ==== Sys2Proof/Machine/Present.lean ====
section
/-! DEFINITION. One presentation: the words go onto the ports, are decoded, and the operation runs (rules R63, R80). -/

namespace Sys2Proof.Machine

/-- A presentation is one atomic step (rules R63, R80). -/
def present (p : Presentation) (s : State) : Result := exec (decode p) { s with ports := p }

/-- Present an operation by its words. -/
def presentInstr (i : Instr) (s : State) : Result := present (encode i) s

end Sys2Proof.Machine
end

