-- ==== Sys2Proof/Machine/Sequencer.lean ====
section
/-! DEFINITION. The documented host, the Scan Sequencer, as environment (rule R5; file 45 of the spec). It acts on the
block only by presenting operations and reading the status ports; no rule of the block depends on it. -/

namespace Sys2Proof.Machine

/-- One operation of the host's step; where it stops, the stop holds the state it finds (rule R233). -/
def hostPresent (i : Instr) (s : State) : Result := stopIn s (presentInstr i s)

/-- Read `ST[a]` and go on with what it shows (rules R32, R137). -/
def withStatus (a : Axis) (s : State) (f : SubState → Result) : Result :=
  match readStatus a s with
  | .ok sub => f sub
  | .error e => stopIn s (.fault e)

/-- The host's SETUP of the Y axis at a speed, with the platform's pins (rules R187, R190, R199). -/
def setupY (speed : Word) (s : State) : Result :=
  hostPresent (.setup .y s.config.host.stepPinY s.config.host.dirPinY 0#16 speed) s

/-- The host's SETUP of the Z axis at `RPM_Z` (rules R183, R199). -/
def setupZ (s : State) : Result :=
  hostPresent (.setup .z s.config.host.stepPinZ s.config.host.dirPinZ 0#16 s.host.rpmZ) s

/-- `dirLevel[Y] <- level;  DIR Y, dirLevel[Y]` (rules R184, R187, R190, R199). -/
def driveDirY (level : Level) (s : State) : Result :=
  hostPresent (.dir .y level 0#31) { s with host := { s.host with dirLevelY := level } }

/-- Leaving Return (rule R187), in the source's order; the slice keeps its value. -/
def leaveReturn (s : State) : Result :=
  andThen (driveDirY s.host.dirLevelY.inv s) fun s1 =>
  andThen (setupY s1.config.host.speedYFine s1) fun s2 =>
  andThen (hostPresent (.rearm .y) { s2 with host := { s2.host with height := 0 } }) fun s3 =>
  .next { s3 with serial := s3.serial ++ [.separator], host := { s3.host with phase := .rotate } }

/-- One tick in Return (rule R186). -/
def tickReturn (s : State) : Result :=
  match s.limBot with
  | .low => leaveReturn s
  | .high => hostPresent (.freerun .y) s

/-- The over-travel abort (rule R190): the direction is reversed too (conflict C3), the height is not changed. -/
def overTravel (s : State) : Result :=
  andThen (driveDirY s.host.dirLevelY.inv s) fun s1 =>
  andThen (setupY s1.config.host.speedYRapid s1) fun s2 =>
  .next { s2 with host := { s2.host with phase := .ret } }

/-- The completion of a layer (rule R191); the sum is exact (log 36). -/
def completeLayer (s : State) : Result :=
  andThen (hostPresent (.rearm .y) s) fun s1 =>
  .next { s1 with
    host := { s1.host with height := s1.host.height + s1.config.host.layerCm, phase := .rotate } }

/-- Present a command if the axis is Idle, else a plain tick, and read the status after it (rules R189, R192). -/
def guardedAdvance (a : Axis) (r : Word) (s : State) (ifDone : State → Result) : Result :=
  withStatus a s fun before =>
  andThen (hostPresent (.advance a (if before = .idle then r else 0#32)) s) fun s1 =>
  withStatus a s1 fun after => if after = .done then ifDone s1 else .next s1

/-- One tick in Linear (rules R189 to R191). -/
def tickLinear (s : State) : Result :=
  match s.limTop with
  | .low => overTravel s
  | .high => guardedAdvance .y s.config.host.layerRev s completeLayer

/-- `Valid(d)` (rule R194): `d > R_CM + MARGIN_CM`, sum and comparison exact: the spec leaves the host's arithmetic open
(`N8`), the model's choice is log 36. -/
def readingValid (s : State) (d : Rat) : Bool := decide (numValue s.host.radius + s.config.host.marginCm < d)

/-- `Point(d)` (rule R194), with the slice before its increment; the difference `R_CM - d` is exact (log 36). -/
def pointOf (s : State) (d : Rat) : Point where
  radius := numValue s.host.radius - d
  slice := s.host.slice
  total := s.config.host.slicesPerRev
  height := s.host.height

/-- Emit the point of a valid reading; an invalid one is silently dropped (rules R193, R194). -/
def emitReading (d : Rat) (s : State) : State :=
  if readingValid s d then { s with serial := s.serial ++ [.point (pointOf s d)] } else s

/-- Rotate, on Done (rule R193): sample the analog channel, emit, count the slice, re-arm. -/
def sampleSlice (s : State) : Result :=
  andThen (hostPresent (.sample s.adc) s) fun s1 =>
  let s2 := emitReading (numValue s1.q) s1
  hostPresent (.rearm .z) { s2 with host := { s2.host with slice := s2.host.slice + 1 } }

/-- Rotate, wrap (rule R195). -/
def wrapSlices (s : State) : Result :=
  andThen (hostPresent (.rearm .z) { s with host := { s.host with slice := 0 } }) fun s1 =>
  .next { s1 with host := { s1.host with phase := .linear } }

/-- The command of one slice, `1/SLICES_PER_REV` as a NUM word (rules R98, R192; log 21). -/
def sliceRevolutions (c : Config) : Word := nearestNum (mkRat 1 c.host.slicesPerRev)

/-- One tick in Rotate (rules R192 to R195). -/
def tickRotate (s : State) : Result :=
  if s.host.slice < s.config.host.slicesPerRev then guardedAdvance .z (sliceRevolutions s.config) s sampleSlice
  else wrapSlices s

/-- One tick of the documented host: the work of one phase (rule R185). -/
def hostTick (s : State) : Result :=
  match s.host.phase with
  | .ret => tickReturn s
  | .linear => tickLinear s
  | .rotate => tickRotate s

/-- What the documented host presents before its first tick (rule R199; log 18). -/
def presentBoot (s : State) : Result :=
  andThen (setupY s.config.host.speedYRapid s) fun s1 =>
  andThen (setupZ s1) fun s2 =>
  andThen (driveDirY s2.config.host.dirDown s2) fun s3 =>
  .next { s3 with host := { s3.host with booted := true } }

/-- The boot, once (rules R196, R199): a host that has booted presents none of it again. -/
def hostBoot (s : State) : Result := if s.host.booted then .next s else presentBoot s

/-- The Z axis has been set up and is not Idle: a command is in flight, or its Done is unconsumed. -/
def busyZ (s : State) : Bool := s.axisZ.configured && decide (s.axisZ.sub ≠ .idle)

/-- The documented host's SETUP for a new `RPM_Z` (rules R183, R279): it presents none to an axis with a command in
flight (rule R196), and waits for Done to be consumed (rule R263; log 19). -/
def setupForRpm (s : State) : Result := if busyZ s then .next s else setupZ s

end Sys2Proof.Machine
end

