-- ==== Sys2Proof/Machine/Environment.lean ====
section
/-! DEFINITION. What each input does to the machine: the host's presentations and ticks, the clocks, the input lines,
the operator, the power (rules R36, R42, R73, R183, R238 to R242, R250). -/

namespace Sys2Proof.Machine

/-- True time goes on by some microseconds; nothing in the block moves (rules R134, R239). -/
def elapseTime (microseconds : Nat) (s : State) : State := { s with time := s.time + microseconds }

/-- The least time after which `USEC` reads `usec` modulo `2^TW` (rules R98, R238). -/
def timeUntil (usec : Nat) (s : State) : Nat := elapsed s.config.tw usec s.time

/-- The operator's speed, clamped to `[1, 50]` (rule R183; log 19). -/
def clampRpm (value : Word) : Word :=
  if numValue value < 1 then 0x3F800000#32 else if 50 < numValue value then 0x42480000#32 else value

/-- Power off and on (rules R250, R251): every piece of state is what reset leaves; the lines outside the block, the
parameters and the inputs still to come are not the block's to lose (log 26). -/
def powerCycle (time msecOrigin : Nat) (s : State) : State :=
  { State.resetWith s.config time msecOrigin with
    limTop := s.limTop, limBot := s.limBot, adc := s.adc, draws := s.draws, inbox := s.inbox }

/-- One input. -/
def perform (i : Input) (s : State) : Result :=
  match i with
  | .present p => present p s
  | .elapse microseconds => .next (elapseTime microseconds s)
  | .waitUntil usec => .next (elapseTime (timeUntil usec s) s)
  | .limits top bottom => .next { s with limTop := top, limBot := bottom }
  | .adc raw => .next { s with adc := raw }
  | .setRadius value => .next { s with host := { s.host with radius := value } }
  | .setRpm value => .next { s with host := { s.host with rpmZ := clampRpm value } }
  | .boot => hostBoot s
  | .tick => hostTick s
  | .rpmSetup => setupForRpm s
  | .powerCycle time msecOrigin => .next (powerCycle time msecOrigin s)

/-- The next input, or nothing: with nothing presented the block waits (rule R252; log 1). -/
def performNext (s : State) : Result :=
  match s.inbox with
  | [] => .next s
  | i :: rest => perform i { s with inbox := rest }

end Sys2Proof.Machine
end

