-- ==== Sys2Proof/Machine/Step.lean ====
section
/-! DEFINITION. One step of the machine: the next input (log 1). -/

namespace Sys2Proof.Machine

/-- One step. -/
def step (s : State) : Host.Outcome State Fault Refusal := performNext s

/-- `s` with the instruction whose bits are `w` presented next (log 1, log 13): the machine fetches nothing (rule
R31), so an instruction runs by being the first input. -/
def State.withFetchWord (s : State) (nbits w : Nat) : State :=
  match unpack (w % 2 ^ nbits) with
  | .ok p => { s with inbox := .present p :: s.inbox }
  | .error _ => s

end Sys2Proof.Machine
end

