-- ==== Sys2Proof/Machine/Serial.lean ====
section
/-! DEFINITION. The coordinates of an emitted point and the text of the serial stream (rules R194, R200, R201), beyond
the block's boundary (rule R242). They are functions of what the state holds; no step computes them, and the real
cosine and sine make them noncomputable. -/

namespace Sys2Proof.Machine

/-- A digit string as bytes. -/
def asciiDigits (n : Nat) : List Byte := (Nat.toDigits 10 n).map (fun ch => BitVec.ofNat 8 ch.toNat)

/-- Three digits, zeros in front (rule R200). -/
def asciiThree (n : Nat) : List Byte :=
  asciiDigits (n / 100 % 10) ++ asciiDigits (n / 10 % 10) ++ asciiDigits (n % 10)

/-- A fixed-point decimal with 3 digits after the decimal point, from sign and thousandths (rule R200). -/
def fixedPoint (v : Bool × Nat) : List Byte :=
  (if v.1 then [0x2D#8] else []) ++ asciiDigits (v.2 / 1000) ++ [0x2E#8] ++ asciiThree (v.2 % 1000)

/-- `angle = (slice-index / total_slices) × 2π` (rule R194). -/
noncomputable def Point.angle (p : Point) : ℝ := (p.slice : ℝ) / (p.total : ℝ) * (2 * Real.pi)

/-- `x = radius_point·cos(angle)` (rules R194, R203). -/
noncomputable def Point.x (p : Point) : ℝ := (p.radius : ℝ) * Real.cos p.angle

/-- `y = radius_point·sin(angle)` (rules R194, R203). -/
noncomputable def Point.y (p : Point) : ℝ := (p.radius : ℝ) * Real.sin p.angle

/-- The thousandths a number is written with (rule R200): its own where it is a whole number of them, else one of the
two it lies between, as the host rounds; to nearest, a tie is open (log 20). -/
noncomputable def thousandthsOf (r : DecimalRounding) (v : ℝ) : ℤ :=
  if Int.fract (1000 * v) = 0 then ⌊1000 * v⌋
  else
    match r with
    | .nearest =>
      if Int.fract (1000 * v) < 1 / 2 then ⌊1000 * v⌋
      else if 1 / 2 < Int.fract (1000 * v) then ⌊1000 * v⌋ + 1
      else if Config.roundsUp v then ⌊1000 * v⌋ + 1 else ⌊1000 * v⌋
    | .truncated => if v < 0 then ⌊1000 * v⌋ + 1 else ⌊1000 * v⌋
    | .platform => if Config.roundsUp v then ⌊1000 * v⌋ + 1 else ⌊1000 * v⌋

/-- The sign a number is written with: the spelling of a negative zero is open (rule R200; log 20). -/
noncomputable def signOf (r : DecimalRounding) (v : ℝ) : Bool :=
  if thousandthsOf r v = 0 then decide (v ≤ 0) && Config.zeroSign v else decide (thousandthsOf r v < 0)

/-- Sign and thousandths of a coordinate as the host writes it (rule R200). -/
noncomputable def printed (r : DecimalRounding) (v : ℝ) : Bool × Nat := (signOf r v, (thousandthsOf r v).natAbs)

/-- Sign and thousandths of a height; a height of 0 is the 0 the host set it to (rules R187, R200). -/
noncomputable def printedHeight (r : DecimalRounding) (z : Rat) : Bool × Nat :=
  if z = 0 then (false, 0) else printed r (z : ℝ)

/-- One line `<x> <y> <z>`, single spaces, a newline (rule R200). -/
noncomputable def pointLine (c : Config) (p : Point) : List Byte :=
  fixedPoint (printed c.host.decimals p.x) ++ [0x20#8] ++ fixedPoint (printed c.host.decimals p.y) ++ [0x20#8] ++
    fixedPoint (printedHeight c.host.decimals p.height) ++ c.host.newlineBytes

/-- The control sequence that clears the console and the 38-character separator line (rule R201). -/
def separatorText (c : Config) : List Byte :=
  c.host.clearBytes ++ List.replicate 38 c.host.separatorByte ++ c.host.newlineBytes

/-- The bytes of one emitted item. -/
noncomputable def serialBytes (c : Config) : SerialItem → List Byte
  | .point p => pointLine c p
  | .separator => separatorText c

/-- The bytes of the whole stream so far. -/
noncomputable def serialStream (s : State) : List Byte := s.serial.flatMap (serialBytes s.config)

end Sys2Proof.Machine
end

