-- ==== Sys2Proof/Machine/Trace.lean ====
section
/-! DEFINITION. The traces of the spec's vectors, as syntax trees (rules R97 to R99): each line becomes inputs. -/

namespace Sys2Proof.Machine

/-- The operation of a trace line, numerals as the exact rationals they denote (rules R97, R98), with the
pseudo-operations `tick` and `move` (rule R99). -/
inductive TraceOp where
  | setup (axis : Axis) (stepPin dirPin : Pin) (speed : Rat)
  | advance (axis : Axis) (revolutions : Rat)
  | rearm (axis : Axis)
  | dir (axis : Axis) (level : Level)
  | freerun (axis : Axis)
  | sample (raw : Word)
  | tick (axis : Axis)
  | move (axis : Axis) (revolutions : Rat)
  deriving DecidableEq, Repr

/-- The operation a line encodes; a decimal becomes the nearest NUM word (rules R98, R99). -/
def traceInstr : TraceOp → Instr
  | .setup a stepPin dirPin speed => .setup a stepPin dirPin 0#16 (nearestNum speed)
  | .advance a r => .advance a (nearestNum r)
  | .rearm a => .rearm a
  | .dir a level => .dir a level 0#31
  | .freerun a => .freerun a
  | .sample raw => .sample raw
  | .tick a => Instr.tick a
  | .move a r => .advance a (nearestNum r)

/-- The operation reads the clock; on the others a written time has no effect (rules R98, R238). -/
def readsClock : TraceOp → Bool
  | .setup _ _ _ _ => false
  | .advance _ _ => true
  | .rearm _ => false
  | .dir _ _ => false
  | .freerun _ => true
  | .sample _ => false
  | .tick _ => true
  | .move _ _ => true

/-- A line `op`, or `@<t> op`, where the counter reads `t` at an operation that reads it (rule R98). -/
def traceLine (t : Option Nat) (op : TraceOp) : List Input :=
  match t with
  | some usec =>
    if readsClock op then [.waitUntil usec, .present (encode (traceInstr op))] else [.present (encode (traceInstr op))]
  | none => [.present (encode (traceInstr op))]

/-- `expect axis State` (rule R99). -/
def expectState (a : Axis) (sub : SubState) (s : State) : Bool := (s.axis a).configured && decide ((s.axis a).sub = sub)

/-- `expect OUT[p] = level` (rule R99). -/
def expectLine (p : Pin) (level : Level) (s : State) : Bool := decide (s.line p = level)

/-- `expect EV += (p, level, t)`: the last event (rule R99). -/
def expectEvent (e : Event) (s : State) : Bool := decide (s.ev.getLast? = some e)

end Sys2Proof.Machine
end

