-- ==== Sys2Proof/Machine/TraceText.lean ====
section
/-! DEFINITION. Reading the characters of a trace line (rules R97 to R99): from text to operations and assertions. It
has no standing outside the spec's vectors (log 35). -/

namespace Sys2Proof.Machine

/-- What a line of a trace is. -/
inductive TraceLine where
  /-- An operation with its time and its stated result, where written. -/
  | operation (time : Option Nat) (op : TraceOp) (result : Option Rat)
  /-- `expect <axis> <State>`. -/
  | state (axis : Axis) (sub : SubState)
  /-- `expect OUT[<p>] = <level>`. -/
  | line (p : Pin) (level : Level)
  /-- `expect EV += (<p>, <level>, <t>)`; a DIR event has no time, written `-`. -/
  | event (e : Event)
  /-- A blank line or a comment. -/
  | blank
  deriving DecidableEq, Repr

/-- A character that only separates: space, comma, brackets, and the signs of an assertion. -/
def isSeparator (c : Char) : Bool :=
  c == ' ' || c == ',' || c == '[' || c == ']' || c == '(' || c == ')' || c == '=' || c == '+'

/-- Put a character in front of the first token, or begin a token with it. -/
def pushChar (c : Char) : List (List Char) → List (List Char)
  | [] => [[c]]
  | token :: rest => (c :: token) :: rest

/-- The pieces of a line between separators, up to `;`, empty ones included. -/
def pieces : List Char → List (List Char)
  | [] => [[]]
  | c :: rest => if c == ';' then [[]] else if isSeparator c then [] :: pieces rest else pushChar c (pieces rest)

/-- The tokens of a line. -/
def tokens (text : List Char) : List (List Char) := (pieces text).filter (fun t => !t.isEmpty)

/-- The value of a digit, decimal or hexadecimal. -/
def digitOf (base : Nat) (c : Char) : Option Nat :=
  let n := c.toNat
  let d := if 48 ≤ n ∧ n ≤ 57 then n - 48 else if 65 ≤ n ∧ n ≤ 70 then n - 55 else if 97 ≤ n ∧ n ≤ 102 then n - 87 else base
  if d < base then some d else none

/-- The number a run of digits denotes after `acc`; `_` separates digits (rule R10). -/
def digitsFrom (base : Nat) : List Char → Nat → Option Nat
  | [], acc => some acc
  | c :: rest, acc =>
    if c == '_' then digitsFrom base rest acc
    else
      match digitOf base c with
      | some d => digitsFrom base rest (acc * base + d)
      | none => none

/-- An unsigned decimal or `0x` hexadecimal integer (rule R98). -/
def readNat : List Char → Option Nat
  | [] => none
  | '0' :: 'x' :: c :: rest => digitsFrom 16 (c :: rest) 0
  | c :: rest => digitsFrom 10 (c :: rest) 0

/-- The characters before and after the first `mark`. -/
def splitAtChar (mark : Char) : List Char → List Char × Option (List Char)
  | [] => ([], none)
  | c :: rest =>
    if c == mark then ([], some rest)
    else
      match splitAtChar mark rest with
      | (before, after) => (c :: before, after)

/-- An unsigned decimal numeral, or a quotient of integers as the vectors write `1/360` (rule R98). -/
def readUnsigned (text : List Char) : Option Rat :=
  match splitAtChar '/' text with
  | (n, some d) =>
    match readNat n, readNat d with
    | some n, some d => if d = 0 then none else some (mkRat n d)
    | _, _ => none
  | (whole, none) =>
    match splitAtChar '.' whole with
    | (n, none) => (readNat n).map (fun n => mkRat n 1)
    | (n, some fraction) => (readNat (n ++ fraction)).map (fun m => mkRat m (10 ^ (fraction.filter (· != '_')).length))

/-- A decimal numeral, with its sign, as the exact rational written (rule R98). -/
def readRat : List Char → Option Rat
  | '-' :: rest => (readUnsigned rest).map (fun q => -q)
  | text => readUnsigned text

/-- `Y` or `Z` (rule R98). -/
def readAxis (text : List Char) : Option Axis :=
  if text = ['Y'] then some .y else if text = ['Z'] then some .z else none

/-- `0`, `1`, `LOW` or `HIGH` (rule R98). -/
def readLevel (text : List Char) : Option Level :=
  if text = ['0'] ∨ text = ['L', 'O', 'W'] then some .low
  else if text = ['1'] ∨ text = ['H', 'I', 'G', 'H'] then some .high
  else none

/-- A pin identity, 8 bits (rules R91, R98). -/
def readPin (text : List Char) : Option Pin :=
  match readNat text with
  | some n => if n < 2 ^ 8 then some (BitVec.ofNat 8 n) else none
  | none => none

/-- A raw sample, an operand word (rules R86, R98). -/
def readRaw (text : List Char) : Option Word :=
  match readNat text with
  | some n => if n < 2 ^ 32 then some (BitVec.ofNat 32 n) else none
  | none => none

/-- The name of a sub-state (rules R27, R99). -/
def readSubState (text : List Char) : Option SubState :=
  if text = ['I', 'd', 'l', 'e'] then some .idle
  else if text = ['P', 'u', 'l', 's', 'e', 'H', 'i', 'g', 'h'] then some .pulseHigh
  else if text = ['P', 'u', 'l', 's', 'e', 'L', 'o', 'w'] then some .pulseLow
  else if text = ['D', 'o', 'n', 'e'] then some .done
  else none

/-- The command a `move` presents: a numeral that is not zero (rule R99). -/
def readMove (a : Axis) (text : List Char) : Option TraceOp :=
  match readRat text with
  | some r => if r = 0 then none else some (.move a r)
  | none => none

/-- An operation from its mnemonic and operands (rules R97, R99). -/
def readOp : List (List Char) → Option TraceOp
  | [name, x] =>
    if name = ['s', 'a', 'm', 'p', 'l', 'e'] then (readRaw x).map .sample
    else
      match readAxis x with
      | none => none
      | some a =>
        if name = ['r', 'e', 'a', 'r', 'm'] then some (.rearm a)
        else if name = ['f', 'r', 'e', 'e', 'r', 'u', 'n'] then some (.freerun a)
        else if name = ['t', 'i', 'c', 'k'] then some (.tick a)
        else none
  | [name, x, y] =>
    match readAxis x with
    | none => none
    | some a =>
      if name = ['a', 'd', 'v', 'a', 'n', 'c', 'e'] then (readRat y).map (.advance a)
      else if name = ['m', 'o', 'v', 'e'] then readMove a y
      else if name = ['d', 'i', 'r'] then (readLevel y).map (.dir a)
      else none
  | [name, x, stepPin, dirPin, speed] =>
    match readAxis x, readPin stepPin, readPin dirPin, readRat speed with
    | some a, some sp, some dp, some q =>
      if name = ['s', 'e', 't', 'u', 'p'] then some (.setup a sp dp q) else none
    | _, _, _, _ => none
  | _ => none

/-- The tokens of an operation and the numeral after `->`, where one stands. -/
def splitResult : List (List Char) → List (List Char) × Option (List (List Char))
  | [] => ([], none)
  | token :: rest =>
    if token = ['-', '>'] then ([], some rest)
    else
      match splitResult rest with
      | (before, after) => (token :: before, after)

/-- An operation line after its time. -/
def readTimed (time : Option Nat) (ts : List (List Char)) : Option TraceLine :=
  match splitResult ts with
  | (op, none) => (readOp op).map (fun o => .operation time o none)
  | (op, some [v]) =>
    match readOp op, readRat v with
    | some o, some q => some (.operation time o (some q))
    | _, _ => none
  | (_, some _) => none

/-- An assertion after `expect` (rule R99). -/
def readExpect : List (List Char) → Option TraceLine
  | [x, y] =>
    match readAxis x, readSubState y with
    | some a, some sub => some (.state a sub)
    | _, _ => none
  | [name, x, y] =>
    match readPin x, readLevel y with
    | some p, some level => if name = ['O', 'U', 'T'] then some (.line p level) else none
    | _, _ => none
  | [name, x, y, t] =>
    match readPin x, readLevel y with
    | some p, some level =>
      if name ≠ ['E', 'V'] then none
      else if t = ['-'] then some (.event { pin := p, level := level, time := none })
      else (readNat t).map (fun n => .event { pin := p, level := level, time := some n })
    | _, _ => none
  | _ => none

/-- A line of a trace; none where it is not of the notation. -/
def readTraceLine (text : List Char) : Option TraceLine :=
  match tokens text with
  | [] => some .blank
  | token :: rest =>
    if token = ['e', 'x', 'p', 'e', 'c', 't'] then readExpect rest
    else
      match token with
      | '@' :: digits =>
        match readNat digits with
        | some t => readTimed (some t) rest
        | none => none
      | _ => readTimed none (token :: rest)

/-- The inputs a line stands for; an assertion is none. -/
def TraceLine.inputs : TraceLine → List Input
  | .operation time op _ => traceLine time op
  | .state _ _ => []
  | .line _ _ => []
  | .event _ => []
  | .blank => []

/-- Whether the state after a line is as the line says: a stated result is `Q`'s value (rules R98, R99). -/
def TraceLine.holds (s : State) : TraceLine → Bool
  | .operation _ _ none => true
  | .operation _ _ (some v) => numFinite s.q && decide (numVal s.q = v)
  | .state a sub => expectState a sub s
  | .line p level => expectLine p level s
  | .event e => expectEvent e s
  | .blank => true

end Sys2Proof.Machine
end

