-- ==== Sys2Proof/Safety.lean ====
section
/-! DEFINITION. The terms claims are stated in: the invariant of a configured machine, what an operation leaves alone,
when an operation completes, runs of one axis and of the filter. -/

namespace Sys2Proof.Machine

/-- The axis an operation addresses; SAMPLE addresses none (rule R82). -/
def axisOf : Instr → Option Axis
  | .setup a _ _ _ _ => some a
  | .advance a _ => some a
  | .rearm a => some a
  | .dir a _ _ => some a
  | .freerun a => some a
  | .sample _ => none
  | .reserved _ a => some a
  | .sampleAxisBit => none

/-- The operation is a SETUP. -/
def isSetup : Instr → Bool
  | .setup _ _ _ _ _ => true
  | _ => false

/-- The operand values are legal: nothing of rule R224 holds. -/
def operandOk (i : Instr) (s : State) : Bool :=
  match i with
  | .setup a stepPin dirPin _ speed =>
      numFinite speed && pinsOk s a stepPin dirPin && (legalHalfPeriod s.config a speed).isSome
  | .advance a r => numFinite r && targetFits s.config a r
  | _ => true

/-- The axis, where the operation needs it so, has had its SETUP (rule R222). -/
def axisReady (i : Instr) (s : State) : Bool :=
  match i with
  | .advance a _ => (s.axis a).configured
  | .rearm a => (s.axis a).configured
  | .dir a _ _ => (s.axis a).configured
  | .freerun a => (s.axis a).configured
  | _ => true

/-- A free run finds its axis Idle (rule R150). -/
def protocolOk (i : Instr) (s : State) : Bool :=
  match i with
  | .freerun a => decide ((s.axis a).sub = .idle)
  | _ => true

/-- The configuration has a meaning for the operation (rule R171). -/
def variantOk (i : Instr) (s : State) : Bool :=
  match i with
  | .sample _ => decide (s.config.filter = .exponential)
  | _ => true

/-- Nothing outside the block's registers, lines, history and result has changed: parameters, clocks, input lines,
host, serial stream, ports, inputs to come. -/
structure SameEnvironment (s t : State) : Prop where
  config : t.config = s.config
  time : t.time = s.time
  msecOrigin : t.msecOrigin = s.msecOrigin
  limTop : t.limTop = s.limTop
  limBot : t.limBot = s.limBot
  adc : t.adc = s.adc
  host : t.host = s.host
  serial : t.serial = s.serial
  ports : t.ports = s.ports
  inbox : t.inbox = s.inbox

/-- The filter's registers are unchanged (rules R38, R39). -/
def SameFilter (s t : State) : Prop := t.primed = s.primed ∧ t.filtered = s.filtered

/-- Every output line and the event history are unchanged (rules R41, R46). -/
def SameLines (s t : State) : Prop := (∀ p, t.line p = s.line p) ∧ t.ev = s.ev

/-- One write of line `p` and nothing else among lines and events (rules R11 (b), R46). -/
def WroteLine (p : Pin) (level : Level) (time : Option Nat) (s t : State) : Prop :=
  t.line p = level ∧ (∀ p', p' ≠ p → t.line p' = s.line p') ∧
    t.ev = s.ev ++ [{ pin := p, level := level, time := time }]

/-- The result port holds the next free value (rule R92). -/
def ResultFree (s t : State) : Prop := t.q = Config.freeWord s.draws ∧ t.draws = s.draws + 1

/-- What rule R29 says of one axis, with the bounds of rules R23, R24, R25, R115 and the pins of rule R119. -/
structure AxisInv (s : State) (a : Axis) : Prop where
  target_fits : (s.axis a).target.toNat ≤ 2 ^ 31 - 1
  time_fits : (s.axis a).timeHeld = true → (s.axis a).lastTime < 2 ^ s.config.tw
  pins_apart : (s.axis a).configured = true → (s.axis a).stepPin ≠ (s.axis a).dirPin
  pins_exist : (s.axis a).configured = true →
    pinExists s.config (s.axis a).stepPin = true ∧ pinExists s.config (s.axis a).dirPin = true
  halfPeriod_legal : (s.axis a).configured = true →
    1 ≤ (s.axis a).halfPeriod ∧ (s.axis a).halfPeriod < 2 ^ s.config.tw
  issued_le : (s.axis a).configured = true → (s.axis a).issued.toNat ≤ (s.axis a).target.toNat
  done_all : (s.axis a).configured = true → (s.axis a).sub = .done → (s.axis a).issued = (s.axis a).target
  pulse_some : (s.axis a).configured = true → (s.axis a).sub = .pulseHigh ∨ (s.axis a).sub = .pulseLow →
    (s.axis a).issued.toNat < (s.axis a).target.toNat ∧ (s.axis a).timeHeld = true
  pulse_high : (s.axis a).configured = true → (s.axis a).sub = .pulseLow → s.line (s.axis a).stepPin = .high

/-- No line belongs to both axes (rule R119). -/
def AxesApart (s : State) : Prop :=
  s.axisY.configured = true → s.axisZ.configured = true →
    s.axisY.stepPin ≠ s.axisZ.stepPin ∧ s.axisY.stepPin ≠ s.axisZ.dirPin ∧
    s.axisY.dirPin ≠ s.axisZ.stepPin ∧ s.axisY.dirPin ≠ s.axisZ.dirPin

/-- The invariant every step keeps (rules R29, R119; log 15 for the lines' form). -/
structure State.Inv (s : State) : Prop where
  lines : linesWf s.out = true
  axisY : AxisInv s .y
  axisZ : AxisInv s .z
  apart : AxesApart s

/-- The filter state lies in `0 .. 2^RAW_BITS - 1` (rule R167). -/
def FilterInRange (s : State) : Prop :=
  s.primed = true → 0 ≤ s.filtered ∧ s.filtered ≤ ((2 ^ s.config.rawBits - 1 : Nat) : Rat)

/-- A number is the value of a finite NUM word (rule R88). -/
def IsNum (x : Rat) : Prop := ∃ w, numFinite w = true ∧ numVal w = x

/-- The filter register holds a NUM value (rules R38, R62, R164). -/
def FilterIsNum (s : State) : Prop := s.primed = true → IsNum s.filtered

/-- Where a run that stops with a fault of a step from `s` stands: the faulting operation has had no effect, every
earlier one all of its effect (rule R233). -/
def stateAtFault (s : State) : Fault → State
  | .illegal _ => s
  | .operand _ => s
  | .unconfigured _ => s
  | .protocol _ => s
  | .statusRead _ => s
  | .inHost reached _ => reached

/-- The slice index lies in `[0, SLICES_PER_REV]` (rule R182). -/
def SliceInRange (s : State) : Prop := s.host.slice ≤ s.config.host.slicesPerRev

/-- The input is a power cycle (rule R250). -/
def isPowerCycle : Input → Bool
  | .powerCycle _ _ => true
  | _ => false

/-- The operation is one that drives the step line of axis `a`: ADVANCE or FREERUN (rules R41, R132). -/
def drivesStepLine (a : Axis) : Instr → Prop
  | .advance b _ => b = a
  | .freerun b => b = a
  | _ => False

/-- Ticks of one axis: true time passes, then ADVANCE. The run ends when the axis is Done (rules R133, R134). -/
def runCommand (a : Axis) : List (Nat × Word) → State → Result
  | [], s => .next s
  | (gap, r) :: rest, s =>
    if (s.axis a).sub = .done then .next s
    else andThen (exec (.advance a r) (elapseTime gap s)) (runCommand a rest)

/-- The levels of `n` successive edges of a command, beginning with `HIGH` (rule R131). -/
def pulseLevels (n : Nat) : List Level := (List.range n).map fun k => if k % 2 = 0 then .high else .low

/-- Successive calls of the filter (rule R166). -/
def runSamples : List Word → State → Result
  | [], s => .next s
  | raw :: rest, s => andThen (exec (.sample raw) s) (runSamples rest)

/-- Sign and thousandths `w` are a writing of the number `v`: less than a thousandth off, half a thousandth at most
where the host rounds to nearest, and no larger than the number where it truncates (rule R200). -/
def WrittenAs (r : DecimalRounding) (v : ℝ) (w : Bool × Nat) : Prop :=
  |(if w.1 then -(w.2 : ℝ) else (w.2 : ℝ)) - 1000 * v| < 1 ∧
    (r = .nearest → |(if w.1 then -(w.2 : ℝ) else (w.2 : ℝ)) - 1000 * v| ≤ 1 / 2) ∧
    (r = .truncated → (w.2 : ℝ) ≤ |1000 * v|)

/-- An ASCII decimal digit. -/
def isAsciiDigit (b : Byte) : Bool := decide (0x30 ≤ b.toNat ∧ b.toNat ≤ 0x39)

end Sys2Proof.Machine
end

