-- ==== Sys2Proof/Certificates/Slice0/Obligations.lean ====
section
/-! DEFINITION. The statements for the provers, each from the numbered rules of spec/. -/

open Sys2Proof Sys2Proof.Machine

/-! ### Encoding (file 30) -/

/-- Rules R81 to R86, R93: the words of an operation are read back as that operation, with every operand at every value. -/
def Obligations.EncodedOperationsDecodeBack : Prop :=
  ∀ i : Instr, decode (encode i) = i

/-- Rules R80, R81, R83, R84, R86: decoding drops no word the operation uses: the command word always, `A` of SETUP,
ADVANCE, DIR and SAMPLE, `B` of SETUP come back. -/
def Obligations.DecodingKeepsTheUsedWords : Prop :=
  ∀ p : Presentation,
    (encode (decode p)).cmd = p.cmd ∧
    (opcodeOf p.cmd = 0b000#3 ∨ opcodeOf p.cmd = 0b001#3 ∨ opcodeOf p.cmd = 0b011#3 ∨ p.cmd = 0b1010#4 →
      (encode (decode p)).a = p.a) ∧
    (opcodeOf p.cmd = 0b000#3 → (encode (decode p)).b = p.b)

/-- Rule R100, the worked encodings, each with its time left aside. -/
def Obligations.WorkedEncodings : Prop :=
  decode { cmd := 0b0000#4, a := 0x00000502#32, b := 0x41200000#32 } = .setup .y 2#8 5#8 0#16 0x41200000#32 ∧
  numVal 0x41200000#32 = 10 ∧
  decode { cmd := 0b0011#4, a := 0x3E800000#32, b := 0#32 } = .advance .z 0x3E800000#32 ∧
  numVal 0x3E800000#32 = 1 / 4 ∧
  decode { cmd := 0b0010#4, a := 0#32, b := 0#32 } = Instr.tick .y ∧
  decode { cmd := 0b0101#4, a := 0#32, b := 0#32 } = .rearm .z ∧
  decode { cmd := 0b0110#4, a := 1#32, b := 0#32 } = .dir .y .high 0#31 ∧
  decode { cmd := 0b1000#4, a := 0#32, b := 0#32 } = .freerun .y ∧
  decode { cmd := 0b1010#4, a := 0x000001F4#32, b := 0#32 } = .sample 500#32

/-- The model's packing of a presentation as one number (log 13) loses nothing; the decoder reads the packed operation. -/
def Obligations.PackedPresentationsUnpack : Prop :=
  ∀ p : Presentation, unpack (pack p) = .ok p ∧ decodeTableWord 68 (pack p) = some (decode p)

/-- Rules R63, R80 (the inputs are log 1's, the packed number log 13's): when the next input presents words, the step
puts them on the ports and is `exec` of the operation they decode to, and nothing more; and the operation of a table word runs in the very next step. -/
def Obligations.StepRunsTheDecodedOperation : Prop :=
  (∀ (s : State) (p : Presentation) (rest : List Input), s.inbox = .present p :: rest →
    step s = exec (decode p) { s with ports := p, inbox := rest }) ∧
  (∀ (s : State) (nbits w : Nat) (i : Instr), decodeTableWord nbits w = some i →
    ∃ p, decode p = i ∧ step (s.withFetchWord nbits w) = exec i { s with ports := p })

/-- Rules R134, R252: with nothing presented the block waits (the inputs to come: log 1). -/
def Obligations.WaitingChangesNothing : Prop :=
  ∀ s : State, s.inbox = [] → step s = .next s

/-! ### Reset (rules R48, R250, R251) -/

/-- Rules R48, R251: what reset leaves, for every choice of the parameters and wherever the counters stand. -/
def Obligations.ResetLeavesTheStatedValues : Prop :=
  ∀ (c : Config) (time msecOrigin : Nat),
    let s := State.resetWith c time msecOrigin
    (∀ a, (s.axis a).configured = false ∧ (s.axis a).timeHeld = false) ∧ s.primed = false ∧
    (∀ p, s.line p = .low) ∧ s.ev = [] ∧
    s.host.phase = .ret ∧ s.host.height = 0 ∧ s.host.slice = 0 ∧
    numVal s.host.radius = 14 ∧ numVal s.host.rpmZ = 10 ∧ readUsec s = time % 2 ^ c.tw

/-- The invariants of this file hold after reset. -/
def Obligations.ResetMeetsTheInvariants : Prop :=
  ∀ (c : Config) (time msecOrigin : Nat),
    (State.resetWith c time msecOrigin).Inv ∧ FilterInRange (State.resetWith c time msecOrigin) ∧
      FilterIsNum (State.resetWith c time msecOrigin) ∧ SliceInRange (State.resetWith c time msecOrigin)

/-- Rules R48, R250, R251: a power cycle leaves the block and the host as reset does, the counters anywhere; what
outlives it is the model's choice (log 26). -/
def Obligations.PowerCycleIsReset : Prop :=
  ∀ (s : State) (time msecOrigin : Nat) (rest : List Input), s.inbox = .powerCycle time msecOrigin :: rest →
    ∃ t, step s = .next t ∧ t.inbox = rest ∧ t.config = s.config ∧ t.time = time ∧
      (∀ a, t.axis a = MotorAxis.reset) ∧ t.primed = false ∧ (∀ p, t.line p = .low) ∧ t.ev = [] ∧
      t.host = ScanHost.reset

/-! ### Faults (file 60) -/

/-- Rules R111, R221, R232: an operation stops with the first of the faults whose precondition is broken, recording
the words on the ports, and completes when none is. Rule R171 says that a configuration with the median filter must be
refused; that SAMPLE alone refuses it, after its check of reserved bits, is the model's choice (log 16). -/
def Obligations.EveryStopIsTheFirstBrokenPrecondition : Prop :=
  ∀ (i : Instr) (s : State),
    (i.wellFormed s.config = false → exec i s = .fault (.illegal s.ports)) ∧
    (i.wellFormed s.config = true → operandOk i s = false → exec i s = .fault (.operand s.ports)) ∧
    (i.wellFormed s.config = true → operandOk i s = true → axisReady i s = false →
      exec i s = .fault (.unconfigured s.ports)) ∧
    (i.wellFormed s.config = true → operandOk i s = true → axisReady i s = true → protocolOk i s = false →
      exec i s = .fault (.protocol s.ports)) ∧
    (i.wellFormed s.config = true → operandOk i s = true → axisReady i s = true → protocolOk i s = true →
      variantOk i s = false → exec i s = .refused .medianVariant) ∧
    (i.wellFormed s.config = true → operandOk i s = true → axisReady i s = true → protocolOk i s = true →
      variantOk i s = true → ∃ t, exec i s = .next t)

/-- Rule R94: presenting a reserved opcode faults, whatever the operands and the state. -/
def Obligations.ReservedOpcodesFault : Prop :=
  (∀ (x : BitVec 1) (a : Axis) (s : State), exec (.reserved x a) s = .fault (.illegal s.ports)) ∧
  (∀ (p : Presentation) (s : State), opcodeOf p.cmd = 0b110#3 ∨ opcodeOf p.cmd = 0b111#3 →
    present p s = .fault (.illegal p))

/-- Rule R95: a presentation with a reserved operand bit or SAMPLE's axis bit set faults; what an ignored port holds
makes no difference. -/
def Obligations.ReservedBitsFault : Prop :=
  (∀ s : State, exec .sampleAxisBit s = .fault (.illegal s.ports)) ∧
  (∀ (p : Presentation) (s : State),
    (opcodeOf p.cmd = 0b000#3 ∧ p.a.extractLsb' 16 16 ≠ 0#16) ∨
    (opcodeOf p.cmd = 0b011#3 ∧ p.a.extractLsb' 1 31 ≠ 0#31) ∨
    (p.cmd = 0b1010#4 ∧ 2 ^ s.config.rawBits ≤ p.a.toNat) ∨ p.cmd = 0b1011#4 →
    present p s = .fault (.illegal p)) ∧
  (∀ (cmd : BitVec 4) (a a' b b' : Word),
    (opcodeOf cmd ≠ 0b000#3 → decode { cmd := cmd, a := a, b := b } = decode { cmd := cmd, a := a, b := b' }) ∧
    (opcodeOf cmd = 0b010#3 ∨ opcodeOf cmd = 0b100#3 →
      decode { cmd := cmd, a := a, b := b } = decode { cmd := cmd, a := a', b := b' }))

/-- Rules R89, R224: the causes of `F_OPERAND`, all of them, in every state; a non-finite operand is one. -/
def Obligations.OperandFaultCauses : Prop :=
  (∀ (a : Axis) (sp dp : Pin) (speed : Word) (s : State),
    exec (.setup a sp dp 0#16 speed) s = .fault (.operand s.ports) ↔
      numExponent speed = 255 ∨ numVal speed ≤ 0 ∨
      (∀ hp, halfPeriodOf s.config a speed = some hp → hp = 0 ∨ 2 ^ s.config.tw ≤ hp) ∨
      sp ∈ s.config.absentPins ∨ dp ∈ s.config.absentPins ∨ sp = dp ∨
      ((s.axis a.other).configured = true ∧
        (sp = (s.axis a.other).stepPin ∨ sp = (s.axis a.other).dirPin ∨
          dp = (s.axis a.other).stepPin ∨ dp = (s.axis a.other).dirPin))) ∧
  (∀ (a : Axis) (r : Word) (s : State),
    exec (.advance a r) s = .fault (.operand s.ports) ↔
      numExponent r = 255 ∨ 2 ^ 31 - 1 < targetOf s.config a r) ∧
  (∀ (i : Instr) (s : State) (w : Presentation),
    (∀ a sp dp rsv speed, i ≠ .setup a sp dp rsv speed) → (∀ a r, i ≠ .advance a r) →
    exec i s ≠ .fault (.operand w))

/-- Rules R28, R222: ADVANCE, REARM, DIR and FREERUN with legal words fault on an axis that has had no SETUP; SAMPLE
never does. -/
def Obligations.UnconfiguredAxisFaults : Prop :=
  (∀ (a : Axis) (s : State), (s.axis a).configured = false →
    (∀ r, numFinite r = true → targetOf s.config a r ≤ 2 ^ 31 - 1 →
      exec (.advance a r) s = .fault (.unconfigured s.ports)) ∧
    exec (.rearm a) s = .fault (.unconfigured s.ports) ∧
    (∀ level, exec (.dir a level 0#31) s = .fault (.unconfigured s.ports)) ∧
    exec (.freerun a) s = .fault (.unconfigured s.ports)) ∧
  (∀ (operand : Word) (s : State) (w : Presentation), exec (.sample operand) s ≠ .fault (.unconfigured w))

/-! ### NUM words and the configuration functions (files 00, 30, 40, 42) -/

/-- Rule R88: the value of a binary32 word, and the two zero words alike. -/
def Obligations.NumWordValue : Prop :=
  (∀ w : Word, numFinite w = false ↔ numExponent w = 255) ∧
  (∀ w : Word, 1 ≤ numExponent w → numExponent w ≤ 254 →
    numVal w = (-1) ^ (w.getLsbD 31).toNat * 2 ^ ((numExponent w : ℤ) - 127) * (1 + (numFraction w : ℚ) / 2 ^ 23)) ∧
  (∀ w : Word, numExponent w = 0 →
    numVal w = (-1) ^ (w.getLsbD 31).toNat * 2 ^ (-126 : ℤ) * ((numFraction w : ℚ) / 2 ^ 23)) ∧
  numVal 0x00000000#32 = 0 ∧ numVal 0x80000000#32 = 0 ∧
  (∀ (a : Axis) (s : State), exec (.advance a 0x80000000#32) s = exec (.advance a 0x00000000#32) s) ∧
  (∀ (a : Axis) (sp dp : Pin) (rsv : BitVec 16) (s : State),
    exec (.setup a sp dp rsv 0x80000000#32) s = exec (.setup a sp dp rsv 0x00000000#32) s)

/-- Rule R118: the default half-period is the truncated quotient; a speed that is not positive has none, whoever
evaluates. -/
def Obligations.DefaultHalfPeriodIsTruncatedQuotient : Prop :=
  (∀ (c : Config) (a : Axis) (speed : Word), numFinite speed = true → c.halfPeriodEval a = .exact →
    0 < numVal speed →
    halfPeriodOf c a speed = some ⌊(30000000 : ℚ) / (numVal speed * (c.mpr a : ℚ))⌋₊) ∧
  (∀ (c : Config) (a : Axis) (speed : Word), numFinite speed = true → numVal speed ≤ 0 →
    halfPeriodOf c a speed = none)

/-- Rule R114: the target is the exact product truncated toward zero, and its sign follows `val(r)` in every
evaluation. -/
def Obligations.TargetIsTruncatedProduct : Prop :=
  (∀ (c : Config) (a : Axis) (r : Word), numFinite r = true → c.targetEval = .exact →
    targetOf c a r =
      if 0 ≤ numVal r then ⌊numVal r * (c.mpr a : ℚ)⌋ else ⌈numVal r * (c.mpr a : ℚ)⌉) ∧
  (∀ (c : Config) (a : Axis) (r : Word), numFinite r = true →
    (0 < numVal r → 0 ≤ targetOf c a r) ∧ (numVal r < 0 → targetOf c a r ≤ 0) ∧
      (numVal r = 0 → targetOf c a r = 0))

/-- Rule R9: every evaluation of `TargetOf`, `Smooth` and the default formula of `HP_a` agrees with the exact formula
where the exact result, before truncation (log 32), is the value of a NUM word. -/
def Obligations.EvaluationsAgreeOnNumValues : Prop :=
  (∀ (c : Config) (a : Axis) (r w : Word), numFinite r = true → numFinite w = true →
    numVal w = numVal r * (c.mpr a : ℚ) →
    targetOf c a r = targetOf { c with targetEval := .exact } a r) ∧
  (∀ (c : Config) (raw : Nat) (prev : ℚ) (w : Word), numFinite w = true →
    numVal w = c.alpha * (raw : ℚ) + (1 - c.alpha) * prev →
    smooth c raw prev = c.alpha * (raw : ℚ) + (1 - c.alpha) * prev) ∧
  (∀ (c : Config) (a : Axis) (speed w : Word), numFinite speed = true → 0 < numVal speed → numFinite w = true →
    numVal w = 30000000 / (numVal speed * (c.mpr a : ℚ)) → c.halfPeriodEval a ≠ .linear →
    halfPeriodOf c a speed = halfPeriodOf { c with halfPeriodEvalY := .exact, halfPeriodEvalZ := .exact } a speed)

/-- Rule R119: what `PinsOk` asks; an axis may be set up again with the pins it has. -/
def Obligations.PinsOkMeaning : Prop :=
  (∀ (s : State) (a : Axis) (sp dp : Pin),
    pinsOk s a sp dp = true ↔
      sp ∉ s.config.absentPins ∧ dp ∉ s.config.absentPins ∧ sp ≠ dp ∧
      ((s.axis a.other).configured = true →
        sp ≠ (s.axis a.other).stepPin ∧ sp ≠ (s.axis a.other).dirPin ∧
        dp ≠ (s.axis a.other).stepPin ∧ dp ≠ (s.axis a.other).dirPin)) ∧
  (∀ (s : State) (a : Axis), s.Inv → (s.axis a).configured = true →
    pinsOk s a (s.axis a).stepPin (s.axis a).dirPin = true)

/-- Rule R112: elapsed time is the difference modulo `2^TW`; of two readings of the counter it is exact for a true
elapsed time below `2^TW`, the true one reduced modulo `2^TW` otherwise, and never more than the true one. -/
def Obligations.ElapsedTimeIsModular : Prop :=
  (∀ tw now lastTime : Nat,
    ((elapsed tw now lastTime : ℕ) : ℤ) = ((now : ℤ) - (lastTime : ℤ)) % ((2 ^ tw : ℕ) : ℤ)) ∧
  (∀ tw earlier later : Nat, earlier ≤ later →
    elapsed tw (later % 2 ^ tw) (earlier % 2 ^ tw) = (later - earlier) % 2 ^ tw ∧
    (later - earlier < 2 ^ tw → elapsed tw (later % 2 ^ tw) (earlier % 2 ^ tw) = later - earlier) ∧
    elapsed tw (later % 2 ^ tw) (earlier % 2 ^ tw) ≤ later - earlier) ∧
  elapsed 32 0x00003A00 0xFFFFFF00 = 15104

/-! ### SETUP (rules R117 to R120) -/

/-- Rule R117: SETUP with its effect, what it leaves alone, and its faults. -/
def Obligations.SetupConfiguresTheAxis : Prop :=
  ∀ (a : Axis) (sp dp : Pin) (rsv : BitVec 16) (speed : Word) (s : State),
    (rsv ≠ 0#16 → exec (.setup a sp dp rsv speed) s = .fault (.illegal s.ports)) ∧
    (rsv = 0#16 → numFinite speed = false ∨ pinsOk s a sp dp = false ∨
        (∀ hp, halfPeriodOf s.config a speed = some hp → ¬(1 ≤ hp ∧ hp ≤ 2 ^ s.config.tw - 1)) →
      exec (.setup a sp dp rsv speed) s = .fault (.operand s.ports)) ∧
    (∀ hp, rsv = 0#16 → numFinite speed = true → pinsOk s a sp dp = true →
        halfPeriodOf s.config a speed = some hp → 1 ≤ hp → hp ≤ 2 ^ s.config.tw - 1 →
      ∃ t, exec (.setup a sp dp rsv speed) s = .next t ∧
        t.axis a = { s.axis a with
          stepPin := sp, dirPin := dp, halfPeriod := hp, sub := .idle, issued := 0#32, configured := true } ∧
        t.axis a.other = s.axis a.other ∧ SameLines s t ∧ SameFilter s t ∧ SameEnvironment s t ∧ ResultFree s t)

/-! ### ADVANCE (rules R122 to R129) -/

/-- Rule R124: ADVANCE in Idle with a command; the first high edge then passes the time test against this `now`. -/
def Obligations.AdvanceAcceptsACommand : Prop :=
  ∀ (a : Axis) (r : Word) (s : State),
    (s.axis a).configured = true → (s.axis a).sub = .idle → numFinite r = true → numVal r ≠ 0 →
    0 < targetOf s.config a r → targetOf s.config a r ≤ 2 ^ 31 - 1 →
    ∃ t, exec (.advance a r) s = .next t ∧
      ((t.axis a).target.toNat : ℤ) = targetOf s.config a r ∧
      t.axis a = { s.axis a with
        target := (t.axis a).target, issued := 0#32, lastTime := s.time % 2 ^ s.config.tw, timeHeld := true,
        sub := .pulseHigh } ∧
      t.axis a.other = s.axis a.other ∧ SameLines s t ∧ SameFilter s t ∧ SameEnvironment s t ∧ ResultFree s t ∧
      (∀ (u v : State) (w : Word), u.axis a = t.axis a → u.config = t.config → exec (.advance a w) u = .next v →
        v.ev ≠ u.ev →
        ((s.axis a).halfPeriod : ℤ) ≤ ((u.time : ℤ) - (s.time : ℤ)) % ((2 ^ s.config.tw : ℕ) : ℤ) ∧
          (s.time ≤ u.time → s.time + (s.axis a).halfPeriod ≤ u.time))

/-- Rule R125: ADVANCE in Idle without a command writes nothing. -/
def Obligations.AdvanceWithoutACommandWritesNothing : Prop :=
  ∀ (a : Axis) (r : Word) (s : State),
    (s.axis a).configured = true → (s.axis a).sub = .idle → numFinite r = true →
    numVal r = 0 ∨ targetOf s.config a r ≤ 0 →
    ∃ t, exec (.advance a r) s = .next t ∧ (∀ b, t.axis b = s.axis b) ∧ SameLines s t ∧ SameFilter s t ∧
      SameEnvironment s t ∧ ResultFree s t

/-- Rule R126: ADVANCE in PulseHigh makes the high edge when it is due, and does nothing before. -/
def Obligations.AdvanceMakesTheHighEdge : Prop :=
  ∀ (a : Axis) (r : Word) (s : State),
    (s.axis a).configured = true → (s.axis a).sub = .pulseHigh → numFinite r = true →
    targetOf s.config a r ≤ 2 ^ 31 - 1 →
    ∃ t, exec (.advance a r) s = .next t ∧ t.axis a.other = s.axis a.other ∧ SameFilter s t ∧ SameEnvironment s t ∧
      ResultFree s t ∧
      (((s.axis a).halfPeriod : ℤ) ≤ ((s.time : ℤ) - ((s.axis a).lastTime : ℤ)) % ((2 ^ s.config.tw : ℕ) : ℤ) →
        WroteLine (s.axis a).stepPin .high (some (s.time % 2 ^ s.config.tw)) s t ∧
        t.axis a = { s.axis a with lastTime := s.time % 2 ^ s.config.tw, timeHeld := true, sub := .pulseLow }) ∧
      (((s.time : ℤ) - ((s.axis a).lastTime : ℤ)) % ((2 ^ s.config.tw : ℕ) : ℤ) < ((s.axis a).halfPeriod : ℤ) →
        SameLines s t ∧ t.axis a = s.axis a)

/-- Rule R127: ADVANCE in PulseLow makes the low edge when it is due, counts it, and is Done when the count so
incremented reaches the target; it does nothing before. -/
def Obligations.AdvanceMakesTheLowEdge : Prop :=
  ∀ (a : Axis) (r : Word) (s : State),
    (s.axis a).configured = true → (s.axis a).sub = .pulseLow → numFinite r = true →
    targetOf s.config a r ≤ 2 ^ 31 - 1 →
    ∃ t, exec (.advance a r) s = .next t ∧ t.axis a.other = s.axis a.other ∧ SameFilter s t ∧ SameEnvironment s t ∧
      ResultFree s t ∧
      (((s.axis a).halfPeriod : ℤ) ≤ ((s.time : ℤ) - ((s.axis a).lastTime : ℤ)) % ((2 ^ s.config.tw : ℕ) : ℤ) →
        WroteLine (s.axis a).stepPin .low (some (s.time % 2 ^ s.config.tw)) s t ∧
        t.axis a = { s.axis a with
          lastTime := s.time % 2 ^ s.config.tw, timeHeld := true, issued := (s.axis a).issued + 1#32,
          sub := if (s.axis a).target.toNat ≤ ((s.axis a).issued + 1#32).toNat then .done else .pulseHigh }) ∧
      (((s.time : ℤ) - ((s.axis a).lastTime : ℤ)) % ((2 ^ s.config.tw : ℕ) : ℤ) < ((s.axis a).halfPeriod : ℤ) →
        SameLines s t ∧ t.axis a = s.axis a)

/-- Rule R128: ADVANCE in Done returns to Idle and does nothing else, whatever the revolutions. -/
def Obligations.AdvanceSelfResetsFromDone : Prop :=
  ∀ (a : Axis) (r : Word) (s : State),
    (s.axis a).configured = true → (s.axis a).sub = .done → numFinite r = true →
    targetOf s.config a r ≤ 2 ^ 31 - 1 →
    ∃ t, exec (.advance a r) s = .next t ∧ t.axis a = { s.axis a with sub := .idle } ∧
      t.axis a.other = s.axis a.other ∧ SameLines s t ∧ SameFilter s t ∧ SameEnvironment s t ∧ ResultFree s t

/-- Rule R123: outside Idle the revolutions make no difference. -/
def Obligations.BusyAxisIgnoresRevolutions : Prop :=
  ∀ (a : Axis) (r r' : Word) (s : State), (s.axis a).sub ≠ .idle →
    numFinite r = true → targetOf s.config a r ≤ 2 ^ 31 - 1 →
    numFinite r' = true → targetOf s.config a r' ≤ 2 ^ 31 - 1 →
    exec (.advance a r) s = exec (.advance a r') s

/-- Rule R115: an over-range target faults in every sub-state, and a configured axis' counter never wraps. -/
def Obligations.TargetsFitAndCountersNeverWrap : Prop :=
  (∀ (a : Axis) (r : Word) (s : State), numFinite r = true → 2 ^ 31 - 1 < targetOf s.config a r →
    exec (.advance a r) s = .fault (.operand s.ports)) ∧
  (∀ (a : Axis) (r : Word) (s t : State), s.Inv → exec (.advance a r) s = .next t →
    (s.axis a).sub = .pulseLow → timeTest s a (readUsec s) = true →
    (t.axis a).issued.toNat = (s.axis a).issued.toNat + 1 ∧ (t.axis a).issued.toNat ≤ (t.axis a).target.toNat)

/-- Rule R129: what ADVANCE never does. -/
def Obligations.AdvanceNeverDoes : Prop :=
  ∀ (a : Axis) (r : Word) (s t : State), exec (.advance a r) s = .next t →
    (t.axis a).stepPin = (s.axis a).stepPin ∧ (t.axis a).dirPin = (s.axis a).dirPin ∧
    (t.axis a).halfPeriod = (s.axis a).halfPeriod ∧ (t.axis a).configured = (s.axis a).configured ∧
    t.axis a.other = s.axis a.other ∧ SameFilter s t ∧ SameEnvironment s t ∧
    (∀ p, p ≠ (s.axis a).stepPin → t.line p = s.line p) ∧
    (t.ev = s.ev ∨ ∃ e, e.pin = (s.axis a).stepPin ∧ t.ev = s.ev ++ [e]) ∧
    ((s.axis a).sub = .idle ∨ (s.axis a).sub = .done → SameLines s t)

/-! ### REARM, DIR (rules R139 to R142) -/

/-- Rules R139, R140: REARM from any sub-state writes the sub-state and nothing else. -/
def Obligations.RearmReturnsToIdle : Prop :=
  (∀ (a : Axis) (s : State), (s.axis a).configured = false → exec (.rearm a) s = .fault (.unconfigured s.ports)) ∧
  (∀ (a : Axis) (s : State), (s.axis a).configured = true →
    ∃ t, exec (.rearm a) s = .next t ∧ t.axis a = { s.axis a with sub := .idle } ∧
      t.axis a.other = s.axis a.other ∧ SameLines s t ∧ SameFilter s t ∧ SameEnvironment s t ∧ ResultFree s t)

/-- Rule R141: DIR writes the direction line, with an event that has no time, and nothing else. -/
def Obligations.DirDrivesTheDirectionLine : Prop :=
  (∀ (a : Axis) (level : Level) (rsv : BitVec 31) (s : State), rsv ≠ 0#31 →
    exec (.dir a level rsv) s = .fault (.illegal s.ports)) ∧
  (∀ (a : Axis) (level : Level) (s : State), (s.axis a).configured = false →
    exec (.dir a level 0#31) s = .fault (.unconfigured s.ports)) ∧
  (∀ (a : Axis) (level : Level) (s : State), (s.axis a).configured = true →
    ∃ t, exec (.dir a level 0#31) s = .next t ∧ WroteLine (s.axis a).dirPin level none s t ∧
      (∀ b, t.axis b = s.axis b) ∧ SameFilter s t ∧ SameEnvironment s t ∧ ResultFree s t)

/-! ### FREERUN (rules R150 to R154) -/

/-- Rule R150: FREERUN toggles the step line when it is due and does nothing before; its faults. -/
def Obligations.FreerunTogglesWhenDue : Prop :=
  (∀ (a : Axis) (s : State), (s.axis a).configured = false → exec (.freerun a) s = .fault (.unconfigured s.ports)) ∧
  (∀ (a : Axis) (s : State), (s.axis a).configured = true → (s.axis a).sub ≠ .idle →
    exec (.freerun a) s = .fault (.protocol s.ports)) ∧
  (∀ (a : Axis) (s : State), (s.axis a).configured = true → (s.axis a).sub = .idle → (s.axis a).timeHeld = true →
    ∃ t, exec (.freerun a) s = .next t ∧ t.axis a.other = s.axis a.other ∧ SameFilter s t ∧ SameEnvironment s t ∧
      ResultFree s t ∧
      (((s.axis a).halfPeriod : ℤ) ≤ ((s.time : ℤ) - ((s.axis a).lastTime : ℤ)) % ((2 ^ s.config.tw : ℕ) : ℤ) →
        WroteLine (s.axis a).stepPin (s.line (s.axis a).stepPin).inv (some (s.time % 2 ^ s.config.tw)) s t ∧
        t.axis a = { s.axis a with lastTime := s.time % 2 ^ s.config.tw }) ∧
      (((s.time : ℤ) - ((s.axis a).lastTime : ℤ)) % ((2 ^ s.config.tw : ℕ) : ℤ) < ((s.axis a).halfPeriod : ℤ) →
        SameLines s t ∧ t.axis a = s.axis a))

/-- Rule R151: the first FREERUN of an axis whose `lastTime` holds no value records the time and touches no line. -/
def Obligations.FirstFreerunOnlyRecords : Prop :=
  ∀ (a : Axis) (s : State), (s.axis a).configured = true → (s.axis a).sub = .idle → (s.axis a).timeHeld = false →
    ∃ t, exec (.freerun a) s = .next t ∧
      t.axis a = { s.axis a with lastTime := s.time % 2 ^ s.config.tw, timeHeld := true } ∧
      t.axis a.other = s.axis a.other ∧ SameLines s t ∧ SameFilter s t ∧ SameEnvironment s t ∧ ResultFree s t

/-- Rule R152: FREERUN makes at most one write of the step line and counts nothing. -/
def Obligations.FreerunCountsNothing : Prop :=
  ∀ (a : Axis) (s t : State), exec (.freerun a) s = .next t →
    t.axis a = { s.axis a with lastTime := (t.axis a).lastTime, timeHeld := true } ∧
    t.axis a.other = s.axis a.other ∧ (∀ p, p ≠ (s.axis a).stepPin → t.line p = s.line p) ∧
    (t.ev = s.ev ∨ ∃ e, e.pin = (s.axis a).stepPin ∧ t.ev = s.ev ++ [e])

/-! ### SAMPLE (rules R160 to R167) -/

/-- Rules R160, R163: the first SAMPLE takes its raw operand as the filter state and answers its calibration; nothing
un-primes the filter and no other operation touches it. -/
def Obligations.FirstSampleInitialisesTheFilter : Prop :=
  (∀ (operand : Word) (s : State), operand.toNat < 2 ^ s.config.rawBits → s.config.filter = .exponential →
    s.primed = false →
    ∃ t, exec (.sample operand) s = .next t ∧ t.filtered = (operand.toNat : ℚ) ∧ t.primed = true ∧
      (0 < operand.toNat → t.q = calPositive s.config (operand.toNat : ℚ)) ∧
      (∀ b, t.axis b = s.axis b) ∧ SameLines s t ∧ SameEnvironment s t) ∧
  (∀ (i : Instr) (s t : State), exec i s = .next t → s.primed = true → t.primed = true) ∧
  (∀ (i : Instr) (s t : State), (∀ operand, i ≠ .sample operand) → exec i s = .next t → SameFilter s t)

/-- Rules R160 to R162, R165: a later SAMPLE smooths, by the exact law in the exact evaluation, and answers the
calibration of the new filter state, any value at 0; that it is any value below 0 too is the model's choice
(log 8), as is that the filter state is held unrounded (log 38). -/
def Obligations.SampleSmoothsAndCalibrates : Prop :=
  ∀ (operand : Word) (s : State), operand.toNat < 2 ^ s.config.rawBits → s.config.filter = .exponential →
    s.primed = true →
    ∃ t, exec (.sample operand) s = .next t ∧ t.primed = true ∧
      t.filtered = smooth s.config operand.toNat s.filtered ∧
      (s.config.smoothEval = .exact →
        t.filtered = s.config.alpha * (operand.toNat : ℚ) + (1 - s.config.alpha) * s.filtered) ∧
      (0 < t.filtered → t.q = calPositive s.config t.filtered ∧ t.draws = s.draws) ∧
      (t.filtered ≤ 0 → ResultFree s t) ∧
      (∀ b, t.axis b = s.axis b) ∧ SameLines s t ∧ SameEnvironment s t

/-- Rules R9, R162: where the real number `10^CAL_B * f^CAL_A` is the value of a NUM word, `Cal(f)` has that value;
over those filter states `Cal` has the strict order rule R162 lets a claim assume; in every case it is one function of
`f` and the constants. For constants that are not both rational this rests on the parameter record's list (log 8). -/
def Obligations.CalibrationIsExactOnNumValues : Prop :=
  (∀ (c : Config) (f : ℚ) (w : Word), CalExactOk c → 0 < f → numFinite w = true →
    (numVal w : ℝ) = (10 : ℝ) ^ c.calB.value * (f : ℝ) ^ c.calA.value →
    numFinite (calPositive c f) = true ∧ numVal (calPositive c f) = numVal w) ∧
  (∀ c : Config, CalExactOk c → CalMonotoneOn c (calExactStates c)) ∧
  (∀ (c c' : Config) (f : ℚ), c.calA = c'.calA → c.calB = c'.calB → c.calExact = c'.calExact →
    calPositive c f = calPositive c' f)

/-- Rule R165: the calibration at zero is any value, no fault, and the filter state is updated as usual. -/
def Obligations.CalibrationOfZeroIsAnyValue : Prop :=
  ∀ (operand : Word) (s : State), operand.toNat < 2 ^ s.config.rawBits → s.config.filter = .exponential →
    (s.primed = false ∧ operand.toNat = 0) ∨
      (s.primed = true ∧ smooth s.config operand.toNat s.filtered = 0) →
    ∃ t, exec (.sample operand) s = .next t ∧ t.filtered = 0 ∧ t.primed = true ∧ ResultFree s t ∧
      (∀ b, t.axis b = s.axis b) ∧ SameLines s t ∧ SameEnvironment s t

/-- Rule R92: after every operation but SAMPLE the result port holds any value (log 7). -/
def Obligations.ResultIsFreeButForSample : Prop :=
  ∀ (i : Instr) (s t : State), (∀ operand, i ≠ .sample operand) → exec i s = .next t → ResultFree s t

/-- Rule R166: a constant raw value makes the filter state converge to it geometrically; that the exact evaluation's
result is held unrounded is the model's choice (log 38). -/
def Obligations.FilterConvergesGeometrically : Prop :=
  (∀ (n : Nat) (raw : Word) (s : State), raw.toNat < 2 ^ s.config.rawBits → s.config.filter = .exponential →
    s.config.smoothEval = .exact → s.primed = true →
    ∃ t, runSamples (List.replicate n raw) s = .next t ∧ t.primed = true ∧
      t.filtered = (raw.toNat : ℚ) + (1 - s.config.alpha) ^ n * (s.filtered - (raw.toNat : ℚ))) ∧
  (∀ (raw : Word) (s : State) (eps : ℚ), raw.toNat < 2 ^ s.config.rawBits → s.config.filter = .exponential →
    s.config.smoothEval = .exact → s.primed = true → 0 < s.config.alpha → s.config.alpha ≤ 1 → 0 < eps →
    ∃ bound : Nat, ∀ n, bound ≤ n → ∃ t, runSamples (List.replicate n raw) s = .next t ∧
      |t.filtered - (raw.toNat : ℚ)| < eps)

/-- Rule R167: in the exact evaluation every step keeps the filter state, held unrounded by the model's choice (log 38),
between 0 and the greatest raw sample. Rules R62, R164: in the platform's evaluation every step keeps the filter
register a NUM value, for raw samples of at most 24 bits, which rule R164 says convert exactly (log 33). -/
def Obligations.FilterStaysInRange : Prop :=
  (∀ s t : State, s.config.smoothEval = .exact → 0 < s.config.alpha → s.config.alpha ≤ 1 →
    FilterInRange s → step s = .next t → FilterInRange t) ∧
  (∀ s t : State, s.config.smoothEval = .platform → s.config.rawBits ≤ 24 →
    FilterIsNum s → step s = .next t → FilterIsNum t)

/-! ### The whole machine -/

/-- Rules R32, R137: the status ports show the sub-state of a configured axis; before, a read is a fault (log 12). -/
def Obligations.StatusPortsShowTheSubState : Prop :=
  ∀ (a : Axis) (s : State),
    ((s.axis a).configured = true →
      readSt a s = .ok (subStateCode (s.axis a).sub) ∧ readDone a s = .ok (decide (readSt a s = .ok 0b11#2))) ∧
    ((s.axis a).configured = false →
      readSt a s = .error (.statusRead a) ∧ readDone a s = .error (.statusRead a) ∧ faultCode (.statusRead a) = 3)

/-- Rules R29, R115, R119: every step, of the host's ticks and the environment too, keeps the invariant (the lines'
form is log 15's, the target of an axis that has had no command log 5's). -/
def Obligations.EveryStepKeepsTheInvariant : Prop :=
  ∀ s t : State, s.Inv → step s = .next t → t.Inv

/-- Rule R130: the edges of `state[a]`, all of them, for a configured axis. -/
def Obligations.SubStateEdges : Prop :=
  ∀ (i : Instr) (a : Axis) (s t : State), exec i s = .next t → (s.axis a).configured = true →
    (t.axis a).sub = (s.axis a).sub ∨
    ((∃ sp dp rsv speed, i = .setup a sp dp rsv speed) ∧ (t.axis a).sub = .idle) ∨
    (i = .rearm a ∧ (t.axis a).sub = .idle) ∨
    ∃ r, i = .advance a r ∧
      (((s.axis a).sub = .idle ∧ (t.axis a).sub = .pulseHigh ∧ numVal r ≠ 0 ∧ 0 < targetOf s.config a r) ∨
       ((s.axis a).sub = .pulseHigh ∧ (t.axis a).sub = .pulseLow ∧ timeTest s a (readUsec s) = true) ∨
       ((s.axis a).sub = .pulseLow ∧ (t.axis a).sub = .pulseHigh ∧ timeTest s a (readUsec s) = true ∧
          (t.axis a).issued.toNat < (t.axis a).target.toNat) ∨
       ((s.axis a).sub = .pulseLow ∧ (t.axis a).sub = .done ∧ timeTest s a (readUsec s) = true ∧
          (t.axis a).target.toNat ≤ (t.axis a).issued.toNat) ∨
       ((s.axis a).sub = .done ∧ (t.axis a).sub = .idle))

/-- Rule R20: an operation writes no register of an axis it does not address, and, SETUP's check of the other axis'
pins aside, reads none. -/
def Obligations.AxesAreIndependent : Prop :=
  (∀ (i : Instr) (a : Axis) (s t : State), axisOf i ≠ some a → exec i s = .next t → t.axis a = s.axis a) ∧
  (∀ (i : Instr) (a : Axis) (m : MotorAxis) (s t : State), axisOf i ≠ some a → isSetup i = false →
    exec i s = .next t → exec i (s.setAxis a m) = .next (t.setAxis a m))

/-- Rule R68: operations on different axes that read the same clock commute in their effect on registers, and on
lines where no line belongs to both axes. -/
def Obligations.OperationsOnDifferentAxesCommute : Prop :=
  ∀ (i j : Instr) (a b : Axis) (s s1 s2 : State), axisOf i = some a → axisOf j = some b → a ≠ b →
    isSetup i = false → isSetup j = false → exec i s = .next s1 → exec j s1 = .next s2 →
    ∃ t1 t2, exec j s = .next t1 ∧ exec i t1 = .next t2 ∧ t2.axisY = s2.axisY ∧ t2.axisZ = s2.axisZ ∧
      SameFilter s2 t2 ∧ SameEnvironment s2 t2 ∧ (AxesApart s → ∀ p, t2.line p = s2.line p)

/-- Rules R21 to R23, R28, R34: the configuration registers of an axis are written by its SETUP and by nothing else. -/
def Obligations.OnlySetupConfigures : Prop :=
  ∀ (i : Instr) (a : Axis) (s t : State), exec i s = .next t → (∀ sp dp rsv speed, i ≠ .setup a sp dp rsv speed) →
    (t.axis a).stepPin = (s.axis a).stepPin ∧ (t.axis a).dirPin = (s.axis a).dirPin ∧
    (t.axis a).halfPeriod = (s.axis a).halfPeriod ∧ (t.axis a).configured = (s.axis a).configured

/-- Rules R11 (b), R46: every change of a line is a write the history records, one an operation at most. -/
def Obligations.LinesChangeOnlyByRecordedWrites : Prop :=
  ∀ (i : Instr) (s t : State), exec i s = .next t →
    SameLines s t ∨ ∃ p level time, WroteLine p level time s t

/-- Rules R35, R239 (E1): no step changes a parameter, and true time never runs backwards but across a power cycle. -/
def Obligations.ParametersStayAndTimeGoesOn : Prop :=
  ∀ s t : State, step s = .next t →
    t.config = s.config ∧ ((∀ i rest, s.inbox = i :: rest → isPowerCycle i = false) → s.time ≤ t.time)

/-- Rule R132, DOC00's property 4: two writes of an axis' step line by its ADVANCE or FREERUN, with any run of the
machine without a power cycle between, are at least the half-period of the second apart in true time. -/
def Obligations.EdgesAreAHalfPeriodApart : Prop :=
  ∀ (a : Axis) (i j : Instr) (s t u v : State) (k : Nat),
    drivesStepLine a i → exec i s = .next t → t.ev ≠ s.ev →
    (∀ x ∈ t.inbox, isPowerCycle x = false) → Host.Core.run Sys2Proof.core k t = .next u →
    drivesStepLine a j → exec j u = .next v → v.ev ≠ u.ev →
    s.time + (u.axis a).halfPeriod ≤ u.time

/-- Rules R131, R133, DOC00's property 1: from an accepted command, however the ticks fall, the axis' ADVANCEs write
alternately HIGH and LOW on its step line, and it is Done after exactly its target of pulse pairs and not before. -/
def Obligations.CommandMakesExactlyItsPulses : Prop :=
  ∀ (a : Axis) (ticks : List (Nat × Word)) (s t : State),
    (s.axis a).configured = true → (s.axis a).sub = .pulseHigh → (s.axis a).issued = 0#32 →
    0 < (s.axis a).target.toNat → (s.axis a).target.toNat ≤ 2 ^ 31 - 1 → runCommand a ticks s = .next t →
    ∃ edges : List Event, t.ev = s.ev ++ edges ∧ (∀ e ∈ edges, e.pin = (s.axis a).stepPin) ∧
      edges.map (·.level) = pulseLevels edges.length ∧ edges.length ≤ ticks.length ∧
      (t.axis a).target = (s.axis a).target ∧
      ((t.axis a).sub = .done ↔ edges.length = 2 * (s.axis a).target.toNat) ∧
      ((t.axis a).sub ≠ .done →
        ((t.axis a).sub = .pulseHigh ∨ (t.axis a).sub = .pulseLow) ∧
        edges.length < 2 * (s.axis a).target.toNat) ∧
      (t.axis a).issued.toNat = edges.length / 2

/-- Rules R133, R282: a command takes at least two half-periods a pulse from its acceptance. -/
def Obligations.CommandTakesItsTime : Prop :=
  ∀ (a : Axis) (ticks : List (Nat × Word)) (s t : State),
    (s.axis a).configured = true → (s.axis a).sub = .pulseHigh → (s.axis a).issued = 0#32 →
    0 < (s.axis a).target.toNat → (s.axis a).target.toNat ≤ 2 ^ 31 - 1 →
    (s.axis a).lastTime = s.time % 2 ^ s.config.tw → runCommand a ticks s = .next t → (t.axis a).sub = .done →
    s.time + 2 * (s.axis a).target.toNat * (s.axis a).halfPeriod ≤ t.time

/-- Rules R134, R239 (E4): a host that presents ADVANCE after gaps of a half-period or more, each below the counter's
range, sees the command Done after two ticks a pulse. -/
def Obligations.TimelyTicksCompleteTheCommand : Prop :=
  ∀ (a : Axis) (ticks : List (Nat × Word)) (s : State),
    (s.axis a).configured = true → (s.axis a).sub = .pulseHigh → (s.axis a).issued = 0#32 →
    0 < (s.axis a).target.toNat → (s.axis a).target.toNat ≤ 2 ^ 31 - 1 →
    (s.axis a).lastTime = s.time % 2 ^ s.config.tw →
    (∀ x ∈ ticks, (s.axis a).halfPeriod ≤ x.1 ∧ x.1 < 2 ^ s.config.tw ∧ numFinite x.2 = true ∧
      targetOf s.config a x.2 ≤ 2 ^ 31 - 1) →
    ticks.length = 2 * (s.axis a).target.toNat →
    ∃ t, runCommand a ticks s = .next t ∧ (t.axis a).sub = .done ∧ (t.axis a).issued = (s.axis a).target

/-! ### The documented host (file 45) -/

/-- Rule R187: leaving Return on the bottom limit. -/
def Obligations.HostLeavesReturnOnTheBottomLimit : Prop :=
  ∀ (s : State) (hp : Nat), s.host.phase = .ret → s.limBot = .low → s.axisY.configured = true →
    numFinite s.config.host.speedYFine = true → pinsOk s .y s.config.host.stepPinY s.config.host.dirPinY = true →
    legalHalfPeriod s.config .y s.config.host.speedYFine = some hp →
    ∃ t, hostTick s = .next t ∧ t.host.phase = .rotate ∧ t.host.height = 0 ∧ t.host.slice = s.host.slice ∧
      t.host.dirLevelY = s.host.dirLevelY.inv ∧ t.line s.axisY.dirPin = s.host.dirLevelY.inv ∧
      t.axisY.halfPeriod = hp ∧ t.axisY.sub = .idle ∧ t.axisY.issued = 0#32 ∧ t.axisZ = s.axisZ ∧
      SameFilter s t ∧ t.serial = s.serial ++ [.separator]

/-- Rules R190, C3: the over-travel abort reverses, reconfigures, abandons the command and returns to Return. Rule
R233: where its SETUP faults, its DIR has had all of its effect, and the fault holds that state (log 39). -/
def Obligations.HostAbortsOnTheTopLimit : Prop :=
  (∀ (s : State) (hp : Nat), s.host.phase = .linear → s.limTop = .low → s.axisY.configured = true →
    numFinite s.config.host.speedYRapid = true → pinsOk s .y s.config.host.stepPinY s.config.host.dirPinY = true →
    legalHalfPeriod s.config .y s.config.host.speedYRapid = some hp →
    ∃ t, hostTick s = .next t ∧ t.host.phase = .ret ∧ t.host.height = s.host.height ∧
      t.host.dirLevelY = s.host.dirLevelY.inv ∧ t.line s.axisY.dirPin = s.host.dirLevelY.inv ∧
      t.axisY.halfPeriod = hp ∧ t.axisY.sub = .idle ∧ t.axisY.issued = 0#32 ∧ t.axisZ = s.axisZ ∧
      SameFilter s t ∧ t.serial = s.serial) ∧
  (∀ s : State, s.host.phase = .linear → s.limTop = .low → s.axisY.configured = true →
    legalHalfPeriod s.config .y s.config.host.speedYRapid = none →
    ∃ f : Fault, hostTick s = .fault f ∧ faultCode f = 2 ∧
      (stateAtFault s f).host.phase = .linear ∧ (stateAtFault s f).host.dirLevelY = s.host.dirLevelY.inv ∧
      (stateAtFault s f).line s.axisY.dirPin = s.host.dirLevelY.inv ∧
      (stateAtFault s f).ev = s.ev ++ [{ pin := s.axisY.dirPin, level := s.host.dirLevelY.inv, time := none }] ∧
      (∀ a, (stateAtFault s f).axis a = s.axis a) ∧ SameFilter s (stateAtFault s f))

/-- Rules R189, R191: the tick whose ADVANCE makes the last low edge of the layer consumes Done in the same tick. -/
def Obligations.HostCompletesALayer : Prop :=
  ∀ s : State, s.host.phase = .linear → s.limTop = .high → s.axisY.configured = true → s.axisY.sub = .pulseLow →
    timeTest s .y (readUsec s) = true → s.axisY.target.toNat ≤ (s.axisY.issued + 1#32).toNat →
    ∃ t, hostTick s = .next t ∧ t.host.phase = .rotate ∧
      t.host.height = s.host.height + s.config.host.layerCm ∧ t.axisY.sub = .idle ∧
      t.axisY.issued = s.axisY.issued + 1#32 ∧ t.line s.axisY.stepPin = .low ∧ t.axisZ = s.axisZ

/-- Rules R192 to R194: the tick that finds the slice's move Done samples the channel, emits the point of a valid
reading with the slice before its increment, counts the slice and re-arms. Rule R233: where the SAMPLE faults, for a
channel wider than the operand, the ADVANCE has had all of its effect, and the fault holds that state (log 39). -/
def Obligations.HostSamplesASlice : Prop :=
  (∀ s : State, s.host.phase = .rotate → s.host.slice < s.config.host.slicesPerRev → s.axisZ.configured = true →
    s.axisZ.sub = .pulseLow → timeTest s .z (readUsec s) = true →
    s.axisZ.target.toNat ≤ (s.axisZ.issued + 1#32).toNat → s.adc.toNat < 2 ^ s.config.rawBits →
    s.config.filter = .exponential →
    ∃ (t u : State), exec (.sample s.adc) { s with draws := s.draws + 1 } = .next u ∧ hostTick s = .next t ∧
      t.filtered = u.filtered ∧ t.primed = true ∧
      t.host.phase = .rotate ∧ t.host.slice = s.host.slice + 1 ∧ t.host.height = s.host.height ∧
      t.axisZ.sub = .idle ∧ t.axisY = s.axisY ∧
      (numValue s.host.radius + s.config.host.marginCm < numValue u.q →
        t.serial = s.serial ++ [.point
          { radius := numValue s.host.radius - numValue u.q, slice := s.host.slice,
            total := s.config.host.slicesPerRev, height := s.host.height }]) ∧
      (numValue u.q ≤ numValue s.host.radius + s.config.host.marginCm → t.serial = s.serial)) ∧
  (∀ s : State, s.host.phase = .rotate → s.host.slice < s.config.host.slicesPerRev → s.axisZ.configured = true →
    s.axisZ.sub = .pulseLow → timeTest s .z (readUsec s) = true →
    s.axisZ.target.toNat ≤ (s.axisZ.issued + 1#32).toNat → 2 ^ s.config.rawBits ≤ s.adc.toNat →
    ∃ f : Fault, hostTick s = .fault f ∧ faultCode f = 1 ∧
      (stateAtFault s f).axisZ =
        { s.axisZ with issued := s.axisZ.issued + 1#32, lastTime := readUsec s, timeHeld := true, sub := .done } ∧
      (stateAtFault s f).line s.axisZ.stepPin = .low ∧
      (stateAtFault s f).ev =
        s.ev ++ [{ pin := s.axisZ.stepPin, level := .low, time := some (readUsec s) }] ∧
      (stateAtFault s f).axisY = s.axisY ∧ SameFilter s (stateAtFault s f) ∧
      (stateAtFault s f).host.slice = s.host.slice ∧ (stateAtFault s f).serial = s.serial)

/-- Rules R195, R197: the phase graph of the documented host, one tick at a time. -/
def Obligations.HostPhaseGraph : Prop :=
  ∀ s t : State, hostTick s = .next t →
    (s.host.phase = .ret → t.host.phase = if s.limBot = .low then .rotate else .ret) ∧
    (s.host.phase = .linear → s.limTop = .low → t.host.phase = .ret) ∧
    (s.host.phase = .linear → s.limTop = .high → t.host.phase = .linear ∨ t.host.phase = .rotate) ∧
    (s.host.phase = .rotate → s.host.slice < s.config.host.slicesPerRev →
      t.host.phase = .rotate ∧ (t.host.slice = s.host.slice ∨ t.host.slice = s.host.slice + 1)) ∧
    (s.host.phase = .rotate → s.config.host.slicesPerRev ≤ s.host.slice →
      t.host.phase = .linear ∧ t.host.slice = 0)

/-- Rule R182: the slice index stays in `[0, SLICES_PER_REV]`. -/
def Obligations.SliceIndexStaysInRange : Prop :=
  ∀ s t : State, SliceInRange s → step s = .next t → SliceInRange t

/-- Rules R194, R200 (the rounding: log 20): every coordinate is printed as an optional minus sign, digits, a point and
three digits; a line is `x`, `y`, `z` so printed, each less than a thousandth from the point's coordinate; and the
point of the spec's worked instance (radius -6, slice 45 of 360, height 0.1) is `-4.243 -4.243 0.100` to nearest. -/
def Obligations.CoordinatesPrintWithThreeDecimals : Prop :=
  (∀ v : Bool × Nat, ∃ whole frac : List Byte,
    fixedPoint v = (if v.1 then [0x2D#8] else []) ++ whole ++ [0x2E#8] ++ frac ∧
    0 < whole.length ∧ frac.length = 3 ∧ (∀ b ∈ whole ++ frac, isAsciiDigit b = true)) ∧
  (∀ (c : Config) (p : Point), ∃ x y z : Bool × Nat,
    pointLine c p =
      fixedPoint x ++ [0x20#8] ++ fixedPoint y ++ [0x20#8] ++ fixedPoint z ++ c.host.newlineBytes ∧
    WrittenAs c.host.decimals ((p.radius : ℝ) * Real.cos ((p.slice : ℝ) / (p.total : ℝ) * (2 * Real.pi))) x ∧
    WrittenAs c.host.decimals ((p.radius : ℝ) * Real.sin ((p.slice : ℝ) / (p.total : ℝ) * (2 * Real.pi))) y ∧
    WrittenAs c.host.decimals (p.height : ℝ) z) ∧
  (∀ c : Config, c.host.decimals = .nearest →
    pointLine c { radius := -6, slice := 45, total := 360, height := mkRat 1 10 } =
      [0x2D#8, 0x34#8, 0x2E#8, 0x32#8, 0x34#8, 0x33#8, 0x20#8, 0x2D#8, 0x34#8, 0x2E#8, 0x32#8, 0x34#8, 0x33#8, 0x20#8,
        0x30#8, 0x2E#8, 0x31#8, 0x30#8, 0x30#8] ++ c.host.newlineBytes)
end

