-- ==== Sys2Proof/Laws/State.lean ====
section
/-! SUPPORT. What each shared update leaves in each field of the state: one small lemma per field per update. -/

namespace Sys2Proof.Machine

@[simp] theorem axis_y (s : State) : s.axis .y = s.axisY := rfl
@[simp] theorem axis_z (s : State) : s.axis .z = s.axisZ := rfl
@[simp] theorem other_y : Axis.other .y = .z := rfl
@[simp] theorem other_z : Axis.other .z = .y := rfl
theorem other_ne (a : Axis) : a.other ≠ a := by cases a <;> decide
theorem other_other (a : Axis) : a.other.other = a := by cases a <;> rfl
theorem eq_or_eq_other (a b : Axis) : b = a ∨ b = a.other := by cases a <;> cases b <;> decide

/-! setAxis -/

@[simp] theorem axis_setAxis_same (s : State) (a : Axis) (m : MotorAxis) : (s.setAxis a m).axis a = m := by
  cases a <;> rfl
@[simp] theorem axis_setAxis_other (s : State) (a : Axis) (m : MotorAxis) :
    (s.setAxis a m).axis a.other = s.axis a.other := by cases a <;> rfl
theorem axis_setAxis_ne (s : State) (m : MotorAxis) {a b : Axis} (h : b ≠ a) : (s.setAxis a m).axis b = s.axis b := by
  cases a <;> cases b <;> first | rfl | exact absurd rfl h
@[simp] theorem setAxis_self (s : State) (a : Axis) : s.setAxis a (s.axis a) = s := by cases a <;> rfl
@[simp] theorem line_setAxis (s : State) (a : Axis) (m : MotorAxis) (p : Pin) : (s.setAxis a m).line p = s.line p := by
  cases a <;> rfl
@[simp] theorem primed_setAxis (s : State) (a : Axis) (m : MotorAxis) : (s.setAxis a m).primed = s.primed := by cases a <;> rfl
@[simp] theorem filtered_setAxis (s : State) (a : Axis) (m : MotorAxis) : (s.setAxis a m).filtered = s.filtered := by cases a <;> rfl
@[simp] theorem out_setAxis (s : State) (a : Axis) (m : MotorAxis) : (s.setAxis a m).out = s.out := by cases a <;> rfl
@[simp] theorem ev_setAxis (s : State) (a : Axis) (m : MotorAxis) : (s.setAxis a m).ev = s.ev := by cases a <;> rfl
@[simp] theorem ports_setAxis (s : State) (a : Axis) (m : MotorAxis) : (s.setAxis a m).ports = s.ports := by cases a <;> rfl
@[simp] theorem q_setAxis (s : State) (a : Axis) (m : MotorAxis) : (s.setAxis a m).q = s.q := by cases a <;> rfl
@[simp] theorem time_setAxis (s : State) (a : Axis) (m : MotorAxis) : (s.setAxis a m).time = s.time := by cases a <;> rfl
@[simp] theorem msecOrigin_setAxis (s : State) (a : Axis) (m : MotorAxis) : (s.setAxis a m).msecOrigin = s.msecOrigin := by cases a <;> rfl
@[simp] theorem limTop_setAxis (s : State) (a : Axis) (m : MotorAxis) : (s.setAxis a m).limTop = s.limTop := by cases a <;> rfl
@[simp] theorem limBot_setAxis (s : State) (a : Axis) (m : MotorAxis) : (s.setAxis a m).limBot = s.limBot := by cases a <;> rfl
@[simp] theorem adc_setAxis (s : State) (a : Axis) (m : MotorAxis) : (s.setAxis a m).adc = s.adc := by cases a <;> rfl
@[simp] theorem host_setAxis (s : State) (a : Axis) (m : MotorAxis) : (s.setAxis a m).host = s.host := by cases a <;> rfl
@[simp] theorem serial_setAxis (s : State) (a : Axis) (m : MotorAxis) : (s.setAxis a m).serial = s.serial := by cases a <;> rfl
@[simp] theorem config_setAxis (s : State) (a : Axis) (m : MotorAxis) : (s.setAxis a m).config = s.config := by cases a <;> rfl
@[simp] theorem draws_setAxis (s : State) (a : Axis) (m : MotorAxis) : (s.setAxis a m).draws = s.draws := by cases a <;> rfl
@[simp] theorem inbox_setAxis (s : State) (a : Axis) (m : MotorAxis) : (s.setAxis a m).inbox = s.inbox := by cases a <;> rfl

/-! writeLine -/

@[simp] theorem axis_writeLine (p : Pin) (l : Level) (t : Option Nat) (s : State) (a : Axis) :
    (writeLine p l t s).axis a = s.axis a := by cases a <;> rfl
@[simp] theorem out_writeLine (p : Pin) (l : Level) (t : Option Nat) (s : State) :
    (writeLine p l t s).out = setLine p l s.out := rfl
@[simp] theorem ev_writeLine (p : Pin) (l : Level) (t : Option Nat) (s : State) :
    (writeLine p l t s).ev = s.ev ++ [{ pin := p, level := l, time := t }] := rfl
@[simp] theorem primed_writeLine (p : Pin) (l : Level) (t : Option Nat) (s : State) : (writeLine p l t s).primed = s.primed := rfl
@[simp] theorem filtered_writeLine (p : Pin) (l : Level) (t : Option Nat) (s : State) : (writeLine p l t s).filtered = s.filtered := rfl
@[simp] theorem ports_writeLine (p : Pin) (l : Level) (t : Option Nat) (s : State) : (writeLine p l t s).ports = s.ports := rfl
@[simp] theorem q_writeLine (p : Pin) (l : Level) (t : Option Nat) (s : State) : (writeLine p l t s).q = s.q := rfl
@[simp] theorem time_writeLine (p : Pin) (l : Level) (t : Option Nat) (s : State) : (writeLine p l t s).time = s.time := rfl
@[simp] theorem msecOrigin_writeLine (p : Pin) (l : Level) (t : Option Nat) (s : State) : (writeLine p l t s).msecOrigin = s.msecOrigin := rfl
@[simp] theorem limTop_writeLine (p : Pin) (l : Level) (t : Option Nat) (s : State) : (writeLine p l t s).limTop = s.limTop := rfl
@[simp] theorem limBot_writeLine (p : Pin) (l : Level) (t : Option Nat) (s : State) : (writeLine p l t s).limBot = s.limBot := rfl
@[simp] theorem adc_writeLine (p : Pin) (l : Level) (t : Option Nat) (s : State) : (writeLine p l t s).adc = s.adc := rfl
@[simp] theorem host_writeLine (p : Pin) (l : Level) (t : Option Nat) (s : State) : (writeLine p l t s).host = s.host := rfl
@[simp] theorem serial_writeLine (p : Pin) (l : Level) (t : Option Nat) (s : State) : (writeLine p l t s).serial = s.serial := rfl
@[simp] theorem config_writeLine (p : Pin) (l : Level) (t : Option Nat) (s : State) : (writeLine p l t s).config = s.config := rfl
@[simp] theorem draws_writeLine (p : Pin) (l : Level) (t : Option Nat) (s : State) : (writeLine p l t s).draws = s.draws := rfl
@[simp] theorem inbox_writeLine (p : Pin) (l : Level) (t : Option Nat) (s : State) : (writeLine p l t s).inbox = s.inbox := rfl

/-! drawResult -/

@[simp] theorem axis_drawResult (s : State) (a : Axis) : (drawResult s).axis a = s.axis a := by cases a <;> rfl
@[simp] theorem axisY_drawResult (s : State) : (drawResult s).axisY = s.axisY := rfl
@[simp] theorem axisZ_drawResult (s : State) : (drawResult s).axisZ = s.axisZ := rfl
@[simp] theorem line_drawResult (s : State) (p : Pin) : (drawResult s).line p = s.line p := rfl
@[simp] theorem q_drawResult (s : State) : (drawResult s).q = Config.freeWord s.draws := rfl
@[simp] theorem draws_drawResult (s : State) : (drawResult s).draws = s.draws + 1 := rfl
@[simp] theorem primed_drawResult (s : State) : (drawResult s).primed = s.primed := rfl
@[simp] theorem filtered_drawResult (s : State) : (drawResult s).filtered = s.filtered := rfl
@[simp] theorem out_drawResult (s : State) : (drawResult s).out = s.out := rfl
@[simp] theorem ev_drawResult (s : State) : (drawResult s).ev = s.ev := rfl
@[simp] theorem ports_drawResult (s : State) : (drawResult s).ports = s.ports := rfl
@[simp] theorem time_drawResult (s : State) : (drawResult s).time = s.time := rfl
@[simp] theorem msecOrigin_drawResult (s : State) : (drawResult s).msecOrigin = s.msecOrigin := rfl
@[simp] theorem limTop_drawResult (s : State) : (drawResult s).limTop = s.limTop := rfl
@[simp] theorem limBot_drawResult (s : State) : (drawResult s).limBot = s.limBot := rfl
@[simp] theorem adc_drawResult (s : State) : (drawResult s).adc = s.adc := rfl
@[simp] theorem host_drawResult (s : State) : (drawResult s).host = s.host := rfl
@[simp] theorem serial_drawResult (s : State) : (drawResult s).serial = s.serial := rfl
@[simp] theorem config_drawResult (s : State) : (drawResult s).config = s.config := rfl
@[simp] theorem inbox_drawResult (s : State) : (drawResult s).inbox = s.inbox := rfl

/-! elapseTime -/

@[simp] theorem axis_elapseTime (n : Nat) (s : State) (a : Axis) : (elapseTime n s).axis a = s.axis a := by cases a <;> rfl
@[simp] theorem axisY_elapseTime (n : Nat) (s : State) : (elapseTime n s).axisY = s.axisY := rfl
@[simp] theorem axisZ_elapseTime (n : Nat) (s : State) : (elapseTime n s).axisZ = s.axisZ := rfl
@[simp] theorem line_elapseTime (n : Nat) (s : State) (p : Pin) : (elapseTime n s).line p = s.line p := rfl
@[simp] theorem time_elapseTime (n : Nat) (s : State) : (elapseTime n s).time = s.time + n := rfl
@[simp] theorem primed_elapseTime (n : Nat) (s : State) : (elapseTime n s).primed = s.primed := rfl
@[simp] theorem filtered_elapseTime (n : Nat) (s : State) : (elapseTime n s).filtered = s.filtered := rfl
@[simp] theorem out_elapseTime (n : Nat) (s : State) : (elapseTime n s).out = s.out := rfl
@[simp] theorem ev_elapseTime (n : Nat) (s : State) : (elapseTime n s).ev = s.ev := rfl
@[simp] theorem ports_elapseTime (n : Nat) (s : State) : (elapseTime n s).ports = s.ports := rfl
@[simp] theorem q_elapseTime (n : Nat) (s : State) : (elapseTime n s).q = s.q := rfl
@[simp] theorem msecOrigin_elapseTime (n : Nat) (s : State) : (elapseTime n s).msecOrigin = s.msecOrigin := rfl
@[simp] theorem limTop_elapseTime (n : Nat) (s : State) : (elapseTime n s).limTop = s.limTop := rfl
@[simp] theorem limBot_elapseTime (n : Nat) (s : State) : (elapseTime n s).limBot = s.limBot := rfl
@[simp] theorem adc_elapseTime (n : Nat) (s : State) : (elapseTime n s).adc = s.adc := rfl
@[simp] theorem host_elapseTime (n : Nat) (s : State) : (elapseTime n s).host = s.host := rfl
@[simp] theorem serial_elapseTime (n : Nat) (s : State) : (elapseTime n s).serial = s.serial := rfl
@[simp] theorem config_elapseTime (n : Nat) (s : State) : (elapseTime n s).config = s.config := rfl
@[simp] theorem draws_elapseTime (n : Nat) (s : State) : (elapseTime n s).draws = s.draws := rfl
@[simp] theorem inbox_elapseTime (n : Nat) (s : State) : (elapseTime n s).inbox = s.inbox := rfl

/-! the result of an operation -/

@[simp] theorem andThen_next (s : State) (f : State → Result) : andThen (.next s) f = f s := rfl

@[simp] theorem andThen_fault (c : Fault) (f : State → Result) : andThen (.fault c) f = .fault c := rfl
@[simp] theorem andThen_refused (c : Refusal) (f : State → Result) : andThen (.refused c) f = .refused c := rfl
@[simp] theorem stopIn_next (s t : State) : stopIn s (.next t) = .next t := rfl
@[simp] theorem stopIn_fault (s : State) (c : Fault) : stopIn s (.fault c) = .fault (.inHost s c) := rfl
@[simp] theorem stopIn_refused (s : State) (c : Refusal) : stopIn s (.refused c) = .refused (.inHost s c) := rfl

/-- Holding the state at a stop changes nothing about an operation that completes. -/
@[simp] theorem stopIn_eq_next {s t : State} {r : Result} : stopIn s r = .next t ↔ r = .next t := by
  cases r <;> simp

/-- A sequence answers a next state exactly when its first part does and its rest does from there. -/
theorem andThen_eq_next {r : Result} {f : State → Result} {t : State} :
    andThen r f = .next t ↔ ∃ s, r = .next s ∧ f s = .next t := by
  cases r <;> simp [andThen]

/-- Raising a fault never answers a next state. -/
theorem raise_ne_next (c : Presentation → Fault) (s t : State) : raise c s ≠ .next t := by simp [raise]

@[simp] theorem complete_eq (s : State) : complete s = .next (drawResult s) := rfl

end Sys2Proof.Machine
end

