-- ==== Sys2Proof/Laws/Lines.lean ====
section
/-! SUPPORT. The output lines: read after write, writes elsewhere, and the canonical form every write keeps. -/

namespace Sys2Proof.Machine

theorem mem_raiseLine (p x : Pin) (l : List Pin) : x ∈ raiseLine p l ↔ x = p ∨ x ∈ l := by
  induction l with
  | nil => simp [raiseLine]
  | cons y rest ih =>
    unfold raiseLine
    split
    · simp
    · split
      · rename_i h
        subst h
        simp
      · simp [ih]
        tauto

theorem mem_lowerLine (p x : Pin) (l : List Pin) : x ∈ lowerLine p l ↔ x ∈ l ∧ x ≠ p := by
  simp [lowerLine]

/-- A line reads as the level last written to it. -/
theorem lineLevel_setLine_same (p : Pin) (level : Level) (l : List Pin) : lineLevel (setLine p level l) p = level := by
  cases level <;> simp [lineLevel, setLine, mem_raiseLine, mem_lowerLine]

/-- A write leaves every other line alone. -/
theorem lineLevel_setLine_ne {p x : Pin} (level : Level) (l : List Pin) (h : x ≠ p) :
    lineLevel (setLine p level l) x = lineLevel l x := by
  cases level <;> simp [lineLevel, setLine, mem_raiseLine, mem_lowerLine, h]

@[simp] theorem line_writeLine_same (p : Pin) (level : Level) (t : Option Nat) (s : State) :
    (writeLine p level t s).line p = level := lineLevel_setLine_same p level s.out

theorem line_writeLine_ne {p x : Pin} (level : Level) (t : Option Nat) (s : State) (h : x ≠ p) :
    (writeLine p level t s).line x = s.line x := lineLevel_setLine_ne level s.out h

/-- The canonical form, as a statement about every pair of lines. -/
theorem linesWf_iff (l : List Pin) : linesWf l = true ↔ l.Pairwise (fun x y => x.toNat < y.toNat) := by
  induction l with
  | nil => simp [linesWf]
  | cons x rest ih =>
    cases rest with
    | nil => simp [linesWf]
    | cons y tail =>
      simp only [linesWf, Bool.and_eq_true, decide_eq_true_eq, ih, List.pairwise_cons]
      constructor
      · rintro ⟨hxy, hy, ht⟩
        refine ⟨?_, hy, ht⟩
        intro z hz
        rcases List.mem_cons.mp hz with rfl | hz
        · exact hxy
        · exact hxy.trans (hy z hz)
      · rintro ⟨hx, hy, ht⟩
        exact ⟨hx y (by simp), hy, ht⟩

theorem pairwise_raiseLine (p : Pin) (l : List Pin) (h : l.Pairwise (fun x y => x.toNat < y.toNat)) :
    (raiseLine p l).Pairwise (fun x y => x.toNat < y.toNat) := by
  induction l with
  | nil => simp [raiseLine]
  | cons x rest ih =>
    rw [List.pairwise_cons] at h
    unfold raiseLine
    split
    · rename_i hpx
      rw [List.pairwise_cons, List.pairwise_cons]
      refine ⟨?_, h⟩
      intro z hz
      rcases List.mem_cons.mp hz with rfl | hz
      · exact hpx
      · exact hpx.trans (h.1 z hz)
    · split
      · rw [List.pairwise_cons]
        exact h
      · rename_i hpx hne
        rw [List.pairwise_cons]
        refine ⟨?_, ih h.2⟩
        intro z hz
        rcases (mem_raiseLine p z rest).mp hz with rfl | hz
        · have : z.toNat ≠ x.toNat := fun he => hne (BitVec.eq_of_toNat_eq he)
          omega
        · exact h.1 z hz

/-- Every write keeps the canonical form. -/
theorem linesWf_setLine (p : Pin) (level : Level) (l : List Pin) (h : linesWf l = true) :
    linesWf (setLine p level l) = true := by
  rw [linesWf_iff] at h ⊢
  cases level with
  | high => exact pairwise_raiseLine p l h
  | low => exact h.sublist (List.filter_sublist)

/-- Equal lines are equal data: two canonical lists that read alike are one list. -/
theorem lines_ext {l m : List Pin} (hl : linesWf l = true) (hm : linesWf m = true)
    (h : ∀ p, lineLevel l p = lineLevel m p) : l = m := by
  rw [linesWf_iff] at hl hm
  have hmem : ∀ p, p ∈ l ↔ p ∈ m := by
    intro p
    have := h p
    simp only [lineLevel, List.contains_iff_mem] at this
    by_cases h1 : p ∈ l <;> by_cases h2 : p ∈ m <;> simp_all
  have hn {k : List Pin} (hk : k.Pairwise (fun x y => x.toNat < y.toNat)) : k.Nodup :=
    hk.imp (fun hxy he => by simp [he] at hxy)
  exact List.Perm.eq_of_pairwise (fun x y _ _ hxy hyx => by omega) hl hm
    ((List.perm_ext_iff_of_nodup (hn hl) (hn hm)).mpr hmem)

/-- The lines after reset are in canonical form. -/
theorem linesWf_reset (c : Config) (time msecOrigin : Nat) : linesWf (State.resetWith c time msecOrigin).out = true := rfl

end Sys2Proof.Machine
end

