-- ==== Sys2Proof/Laws/Exec.lean ====
section
/-! SUPPORT. One lemma per operation that says when it answers a next state and which; what the shared parts can do. -/

namespace Sys2Proof.Machine

/-- SETUP answers exactly this. -/
theorem execSetup_eq_next {a : Axis} {sp dp : Pin} {rsv : BitVec 16} {speed : Word} {s t : State} :
    execSetup a sp dp rsv speed s = .next t ↔
      rsv = 0#16 ∧ numFinite speed = true ∧ pinsOk s a sp dp = true ∧
        ∃ hp, legalHalfPeriod s.config a speed = some hp ∧
          t = drawResult (s.setAxis a (configureAxis (s.axis a) sp dp hp)) := by
  unfold execSetup
  by_cases h1 : rsv = 0#16
  · by_cases h2 : numFinite speed = true
    · by_cases h3 : pinsOk s a sp dp = true
      · cases h4 : legalHalfPeriod s.config a speed with
        | none => simp [h1, h2, h3, raise]
        | some hp => simp [h1, h2, h3, eq_comm]
      · simp [h1, h2, h3, raise]
    · simp [h1, h2, raise]
  · simp [h1, raise]

/-- ADVANCE answers exactly this. -/
theorem execAdvance_eq_next {a : Axis} {r : Word} {s t : State} :
    execAdvance a r s = .next t ↔
      numFinite r = true ∧ targetFits s.config a r = true ∧ (s.axis a).configured = true ∧
        t = drawResult (advanceAxis a r (readUsec s) s) := by
  unfold execAdvance
  by_cases h1 : numFinite r = true
  · by_cases h2 : targetFits s.config a r = true
    · by_cases h3 : (s.axis a).configured = true
      · simp [h1, h2, h3, eq_comm]
      · simp [h1, h2, h3, raise]
    · simp [h1, h2, raise]
  · simp [h1, raise]

/-- REARM answers exactly this. -/
theorem execRearm_eq_next {a : Axis} {s t : State} :
    execRearm a s = .next t ↔
      (s.axis a).configured = true ∧ t = drawResult (s.setAxis a { s.axis a with sub := .idle }) := by
  unfold execRearm
  by_cases h : (s.axis a).configured = true
  · simp [h, eq_comm]
  · simp [h, raise]

/-- DIR answers exactly this. -/
theorem execDir_eq_next {a : Axis} {level : Level} {rsv : BitVec 31} {s t : State} :
    execDir a level rsv s = .next t ↔
      rsv = 0#31 ∧ (s.axis a).configured = true ∧ t = drawResult (writeLine (s.axis a).dirPin level none s) := by
  unfold execDir
  by_cases h1 : rsv = 0#31
  · by_cases h2 : (s.axis a).configured = true
    · simp [h1, h2, eq_comm]
    · simp [h1, h2, raise]
  · simp [h1, raise]

/-- FREERUN answers exactly this. -/
theorem execFreerun_eq_next {a : Axis} {s t : State} :
    execFreerun a s = .next t ↔
      (s.axis a).configured = true ∧ (s.axis a).sub = .idle ∧ t = drawResult (freerunAxis a (readUsec s) s) := by
  unfold execFreerun
  by_cases h1 : (s.axis a).configured = true
  · by_cases h2 : (s.axis a).sub = .idle
    · simp [h1, h2, eq_comm]
    · simp [h1, h2, raise]
  · simp [h1, raise]

/-- SAMPLE answers exactly this. -/
theorem execSample_eq_next {operand : Word} {s t : State} :
    execSample operand s = .next t ↔
      rawFits s.config operand = true ∧ s.config.filter = .exponential ∧
        t = calibrate { s with filtered := nextFiltered s operand.toNat, primed := true } := by
  unfold execSample
  by_cases h1 : rawFits s.config operand = true
  · cases h2 : s.config.filter <;> simp [h1, eq_comm]
  · simp [h1, raise]

/-- What ADVANCE can do to a configured axis: one of six things (rules R124 to R128). -/
theorem advanceAxis_cases (a : Axis) (r : Word) (now : Nat) (s : State) :
    ((s.axis a).sub = .idle ∧ isCommand s.config a r = true ∧
        advanceAxis a r now s = acceptCommand a (targetOf s.config a r) now s) ∨
    ((s.axis a).sub = .idle ∧ isCommand s.config a r = false ∧ advanceAxis a r now s = s) ∨
    (((s.axis a).sub = .pulseHigh ∨ (s.axis a).sub = .pulseLow) ∧ timeTest s a now = false ∧
        advanceAxis a r now s = s) ∨
    ((s.axis a).sub = .pulseHigh ∧ timeTest s a now = true ∧
        advanceAxis a r now s =
          (writeLine (s.axis a).stepPin .high (some now) s).setAxis a
            { s.axis a with lastTime := now, timeHeld := true, sub := .pulseLow }) ∨
    ((s.axis a).sub = .pulseLow ∧ timeTest s a now = true ∧
        advanceAxis a r now s =
          (writeLine (s.axis a).stepPin .low (some now) s).setAxis a
            { s.axis a with
              lastTime := now, timeHeld := true, issued := (s.axis a).issued + 1#32,
              sub := if commandComplete ((s.axis a).issued + 1#32) (s.axis a).target then .done else .pulseHigh }) ∨
    ((s.axis a).sub = .done ∧ advanceAxis a r now s = s.setAxis a { s.axis a with sub := .idle }) := by
  unfold advanceAxis
  cases hs : (s.axis a).sub with
  | idle => cases hc : isCommand s.config a r <;> simp
  | pulseHigh => cases ht : timeTest s a now <;> simp [highEdgeIfDue, ht]
  | pulseLow => cases ht : timeTest s a now <;> simp [lowEdgeIfDue, ht]
  | done => simp

/-- What FREERUN can do to a configured Idle axis: one of three things (rules R150, R151). -/
theorem freerunAxis_cases (a : Axis) (now : Nat) (s : State) :
    ((s.axis a).timeHeld = false ∧
        freerunAxis a now s = s.setAxis a { s.axis a with lastTime := now, timeHeld := true }) ∨
    ((s.axis a).timeHeld = true ∧ timeTest s a now = true ∧ freerunAxis a now s = toggleStepLine a now s) ∨
    ((s.axis a).timeHeld = true ∧ timeTest s a now = false ∧ freerunAxis a now s = s) := by
  unfold freerunAxis
  cases hh : (s.axis a).timeHeld <;> cases ht : timeTest s a now <;> simp

/-- What the calibration can do: it writes the result port and, where it draws, the count of draws. -/
theorem calibrate_cases (s : State) :
    (0 < s.filtered.num ∧ calibrate s = { s with q := calPositive s.config s.filtered }) ∨
    (s.filtered.num ≤ 0 ∧ calibrate s = drawResult s) := by
  unfold calibrate
  by_cases h : 0 < s.filtered.num
  · exact .inl ⟨h, by simp [h]⟩
  · exact .inr ⟨not_lt.mp h, by simp [h]⟩

/-- No operation touches what lies outside the block's registers, lines, history and result. -/
theorem exec_sameEnvironment {i : Instr} {s t : State} (h : exec i s = .next t) : SameEnvironment s t := by
  cases i with
  | setup a sp dp rsv speed =>
    obtain ⟨-, -, -, hp, -, rfl⟩ := execSetup_eq_next.mp h
    constructor <;> simp
  | advance a r =>
    obtain ⟨-, -, -, rfl⟩ := execAdvance_eq_next.mp h
    rcases advanceAxis_cases a r (readUsec s) s with ⟨-, -, h⟩ | ⟨-, -, h⟩ | ⟨-, -, h⟩ | ⟨-, -, h⟩ | ⟨-, -, h⟩ | ⟨-, h⟩ <;>
      rw [h] <;> constructor <;> simp [acceptCommand]
  | rearm a =>
    obtain ⟨-, rfl⟩ := execRearm_eq_next.mp h
    constructor <;> simp
  | dir a level rsv =>
    obtain ⟨-, -, rfl⟩ := execDir_eq_next.mp h
    constructor <;> simp
  | freerun a =>
    obtain ⟨-, -, rfl⟩ := execFreerun_eq_next.mp h
    rcases freerunAxis_cases a (readUsec s) s with ⟨-, h⟩ | ⟨-, -, h⟩ | ⟨-, -, h⟩ <;>
      rw [h] <;> constructor <;> simp [toggleStepLine]
  | sample operand =>
    obtain ⟨-, -, rfl⟩ := execSample_eq_next.mp h
    rcases calibrate_cases { s with filtered := nextFiltered s operand.toNat, primed := true } with ⟨-, h⟩ | ⟨-, h⟩ <;>
      rw [h] <;> constructor <;> simp
  | reserved x a => exact absurd h (raise_ne_next _ _ _)
  | sampleAxisBit => exact absurd h (raise_ne_next _ _ _)

end Sys2Proof.Machine
end

