-- ==== Sys2Proof/Laws/Num.lean ====
section
/-! SUPPORT. NUM words made of their fields, and the smoothing that leaves one. -/

namespace Sys2Proof.Machine

/-- Bits 30..23 of a sign, an exponent and a fraction side by side are the exponent. -/
theorem extractLsb'_exponent (sign : BitVec 1) (exponent : BitVec 8) (fraction : BitVec 23) :
    BitVec.extractLsb' 23 8 (sign ++ (exponent ++ fraction)) = exponent := by
  rw [BitVec.extractLsb'_append_eq_of_add_le (by omega), BitVec.extractLsb'_append_eq_of_le (by omega)]
  simp

/-- The exponent field of a word made of its fields is the field. -/
theorem numExponent_wordOfFields (x : NumFields) : numExponent (wordOfFields x) = x.exponent.val := by
  have h : (wordOfFields x).extractLsb' 23 8 = BitVec.ofNat 8 x.exponent.val := extractLsb'_exponent _ _ _
  have hx := x.exponent.isLt
  rw [numExponent, h, BitVec.toNat_ofNat, Nat.mod_eq_of_lt (by omega)]

/-- A word made of its fields is finite (rule R88). -/
theorem numFinite_wordOfFields (x : NumFields) : numFinite (wordOfFields x) = true := by
  have := x.exponent.isLt
  simp [numFinite, numExponent_wordOfFields, Nat.ne_of_lt this]

/-- What the platform's own smoothing leaves is a NUM value, whatever was there (rules R62, R164). -/
theorem isNum_smooth {c : Config} (h : c.smoothEval = .platform) (raw : Nat) (prev : Rat) :
    IsNum (smooth c raw prev) := by
  simp only [smooth, h]
  split
  · rename_i hr
    simp only [representable, Bool.and_eq_true, decide_eq_true_eq] at hr
    exact ⟨_, hr⟩
  · exact ⟨_, numFinite_wordOfFields _, rfl⟩

end Sys2Proof.Machine
end

