-- ==== Sys2Proof/Laws/PerInstr.lean ====
section
/-! SUPPORT. What holds of every operation as syntax: its command word is its opcode table row's (rule R93). -/

namespace Sys2Proof.Laws

/-- The row's mask in spec/opcode_table.json: the bits of `CMD` the row fixes. -/
def rowMask : Instr → BitVec 4
  | .setup _ _ _ _ _ => 0xE#4
  | .advance _ _ => 0xE#4
  | .rearm _ => 0xE#4
  | .dir _ _ _ => 0xE#4
  | .freerun _ => 0xE#4
  | .sample _ => 0xF#4
  | .reserved _ _ => 0xC#4
  | .sampleAxisBit => 0xF#4

/-- The row's match in spec/opcode_table.json: the values of the bits it fixes. -/
def rowMatch : Instr → BitVec 4
  | .setup _ _ _ _ _ => 0x0#4
  | .advance _ _ => 0x2#4
  | .rearm _ => 0x4#4
  | .dir _ _ _ => 0x6#4
  | .freerun _ => 0x8#4
  | .sample _ => 0xA#4
  | .reserved _ _ => 0xC#4
  | .sampleAxisBit => 0xB#4

/-- The encoded command word has the row's fixed bits. -/
def EncodedCommand.Statement (i : Instr) : Prop := (encode i).cmd &&& rowMask i = rowMatch i

theorem EncodedCommand.setup (a : Axis) (stepPin dirPin : Pin) (reservedBits : BitVec 16) (speed : Word) :
    EncodedCommand.Statement (.setup a stepPin dirPin reservedBits speed) := by
  simp only [EncodedCommand.Statement, encode, rowMask, rowMatch]
  cases a <;> decide

theorem EncodedCommand.advance (a : Axis) (r : Word) : EncodedCommand.Statement (.advance a r) := by
  simp only [EncodedCommand.Statement, encode, rowMask, rowMatch]
  cases a <;> decide

theorem EncodedCommand.rearm (a : Axis) : EncodedCommand.Statement (.rearm a) := by
  simp only [EncodedCommand.Statement, encode, rowMask, rowMatch]
  cases a <;> decide

theorem EncodedCommand.dir (a : Axis) (level : Level) (reservedBits : BitVec 31) :
    EncodedCommand.Statement (.dir a level reservedBits) := by
  simp only [EncodedCommand.Statement, encode, rowMask, rowMatch]
  cases a <;> decide

theorem EncodedCommand.freerun (a : Axis) : EncodedCommand.Statement (.freerun a) := by
  simp only [EncodedCommand.Statement, encode, rowMask, rowMatch]
  cases a <;> decide

theorem EncodedCommand.sample (operand : Word) : EncodedCommand.Statement (.sample operand) := by
  simp only [EncodedCommand.Statement, encode, rowMask, rowMatch]
  decide

theorem EncodedCommand.reserved (x : BitVec 1) (a : Axis) : EncodedCommand.Statement (.reserved x a) := by
  unfold EncodedCommand.Statement
  cases a <;> revert x <;> decide

theorem EncodedCommand.sampleAxisBit : EncodedCommand.Statement .sampleAxisBit := by
  simp only [EncodedCommand.Statement, encode, rowMask, rowMatch]
  decide

end Sys2Proof.Laws
end

