-- ==== Sys2Proof/Laws/Step.lean ====
section
/-! SUPPORT. What a step can do to the block: operations, and changes outside the block; power cycles apart. -/

namespace Sys2Proof.Machine

/-- The block itself (its registers, lines and history) and the parameters are unchanged; true time may have passed. -/
structure SameBlock (s t : State) : Prop where
  axisY : t.axisY = s.axisY
  axisZ : t.axisZ = s.axisZ
  primed : t.primed = s.primed
  filtered : t.filtered = s.filtered
  out : t.out = s.out
  ev : t.ev = s.ev
  config : t.config = s.config
  time_le : s.time ≤ t.time

theorem SameBlock.axis {s t : State} (h : SameBlock s t) (a : Axis) : t.axis a = s.axis a := by
  cases a
  · exact h.axisY
  · exact h.axisZ

theorem SameBlock.line {s t : State} (h : SameBlock s t) (p : Pin) : t.line p = s.line p := by
  simp [State.line, h.out]

/-- Reading the status of an axis goes on exactly when the axis is configured (rule R32). -/
theorem withStatus_eq_next {a : Axis} {s t : State} {f : SubState → Result} :
    withStatus a s f = .next t ↔ (s.axis a).configured = true ∧ f (s.axis a).sub = .next t := by
  unfold withStatus readStatus
  cases (s.axis a).configured <;> simp [stopIn]

/-- The host's operation completes exactly when the operation presented does. -/
theorem hostPresent_eq_next {i : Instr} {s t : State} : hostPresent i s = .next t ↔ presentInstr i s = .next t :=
  stopIn_eq_next

/-- Where the operation faults, the host's fault holds the state the operation finds (rule R233). -/
theorem hostPresent_of_fault {i : Instr} {s : State} {c : Fault} (h : presentInstr i s = .fault c) :
    hostPresent i s = .fault (.inHost s c) := by simp [hostPresent, h]

/-- The like of a refusal. -/
theorem hostPresent_of_refused {i : Instr} {s : State} {c : Refusal} (h : presentInstr i s = .refused c) :
    hostPresent i s = .refused (.inHost s c) := by simp [hostPresent, h]

/-- A relation between states that every operation meets, that changes outside the block meet, and that composes. -/
structure Closed (R : State → State → Prop) : Prop where
  trans : ∀ {s t u : State}, R s t → R t u → R s u
  exec : ∀ {i : Instr} {s t : State}, exec i s = .next t → R s t
  same : ∀ {s t : State}, SameBlock s t → R s t

namespace Closed

variable {R : State → State → Prop} (hR : Closed R)
include hR

theorem present {p : Presentation} {s t : State} (h : Machine.present p s = .next t) : R s t :=
  hR.trans (hR.same (by constructor <;> simp)) (hR.exec h)

theorem hostPresent {i : Instr} {s t : State} (h : Machine.hostPresent i s = .next t) : R s t :=
  hR.present (hostPresent_eq_next.mp h)

theorem andThen {r : Result} {f : State → Result} {s t : State} (h1 : ∀ u, r = .next u → R s u)
    (h2 : ∀ u v, f u = .next v → R u v) (h : Machine.andThen r f = .next t) : R s t := by
  obtain ⟨u, hu, ht⟩ := andThen_eq_next.mp h
  exact hR.trans (h1 u hu) (h2 u t ht)

theorem driveDirY {level : Level} {s t : State} (h : Machine.driveDirY level s = .next t) : R s t :=
  hR.trans (hR.same (by constructor <;> simp)) (hR.hostPresent h)

theorem setupY {speed : Word} {s t : State} (h : Machine.setupY speed s = .next t) : R s t := hR.hostPresent h

theorem setupZ {s t : State} (h : Machine.setupZ s = .next t) : R s t := hR.hostPresent h

/-- Presenting an operation after a change outside the block. -/
theorem presentAfter {i : Instr} {s t u : State} (hu : SameBlock s u) (h : Machine.hostPresent i u = .next t) :
    R s t :=
  hR.trans (hR.same hu) (hR.hostPresent h)

theorem leaveReturn {s t : State} (h : Machine.leaveReturn s = .next t) : R s t := by
  refine hR.andThen (fun _ => hR.driveDirY) (fun u v => ?_) h
  refine hR.andThen (fun _ => hR.setupY) (fun u v => ?_)
  refine hR.andThen (fun w => hR.presentAfter (by constructor <;> simp)) (fun u v h => ?_)
  cases h
  exact hR.same (by constructor <;> simp)

theorem overTravel {s t : State} (h : Machine.overTravel s = .next t) : R s t := by
  refine hR.andThen (fun _ => hR.driveDirY) (fun u v => ?_) h
  refine hR.andThen (fun _ => hR.setupY) (fun u v h => ?_)
  cases h
  exact hR.same (by constructor <;> simp)

theorem completeLayer {s t : State} (h : Machine.completeLayer s = .next t) : R s t := by
  refine hR.andThen (fun _ => hR.hostPresent) (fun u v h => ?_) h
  cases h
  exact hR.same (by constructor <;> simp)

theorem guardedAdvance {a : Axis} {r : Word} {s t : State} {f : State → Result}
    (hf : ∀ u v, f u = .next v → R u v) (h : Machine.guardedAdvance a r s f = .next t) : R s t := by
  refine hR.andThen (fun _ => hR.hostPresent) (fun u v h => ?_) (withStatus_eq_next.mp h).2
  replace h := (withStatus_eq_next.mp h).2
  split at h
  · exact hf _ _ h
  · cases h
    exact hR.same (by constructor <;> simp)

theorem sampleSlice {s t : State} (h : Machine.sampleSlice s = .next t) : R s t := by
  refine hR.andThen (fun _ => hR.hostPresent) (fun u v => ?_) h
  refine hR.presentAfter ?_
  constructor <;> simp only [emitReading] <;> split <;> simp

theorem wrapSlices {s t : State} (h : Machine.wrapSlices s = .next t) : R s t := by
  refine hR.andThen (fun _ => hR.presentAfter (by constructor <;> simp)) (fun u v h => ?_) h
  cases h
  exact hR.same (by constructor <;> simp)

/-- One tick of the documented host. -/
theorem hostTick {s t : State} (h : Machine.hostTick s = .next t) : R s t := by
  unfold Machine.hostTick at h
  split at h
  · unfold tickReturn at h
    split at h
    · exact hR.leaveReturn h
    · exact hR.hostPresent h
  · unfold tickLinear at h
    split at h
    · exact hR.overTravel h
    · exact hR.guardedAdvance (fun _ _ => hR.completeLayer) h
  · unfold tickRotate at h
    split at h
    · exact hR.guardedAdvance (fun _ _ => hR.sampleSlice) h
    · exact hR.wrapSlices h

theorem presentBoot {s t : State} (h : Machine.presentBoot s = .next t) : R s t := by
  refine hR.andThen (fun _ => hR.setupY) (fun u v => ?_) h
  refine hR.andThen (fun _ => hR.setupZ) (fun u v => ?_)
  refine hR.andThen (fun _ => hR.driveDirY) (fun u v h => ?_)
  cases h
  exact hR.same (by constructor <;> simp)

theorem hostBoot {s t : State} (h : Machine.hostBoot s = .next t) : R s t := by
  unfold Machine.hostBoot at h
  split at h
  · cases h
    exact hR.same (by constructor <;> simp)
  · exact hR.presentBoot h

theorem setupForRpm {s t : State} (h : Machine.setupForRpm s = .next t) : R s t := by
  unfold Machine.setupForRpm at h
  split at h
  · cases h
    exact hR.same (by constructor <;> simp)
  · exact hR.setupZ h

/-- Every input but a power cycle. -/
theorem perform {i : Input} {s t : State} (hi : isPowerCycle i = false) (h : Machine.perform i s = .next t) :
    R s t := by
  cases i with
  | present p => exact hR.present h
  | boot => exact hR.hostBoot h
  | tick => exact hR.hostTick h
  | rpmSetup => exact hR.setupForRpm h
  | powerCycle time msecOrigin => simp [isPowerCycle] at hi
  | elapse | waitUntil | limits | adc | setRadius | setRpm =>
    cases h
    exact hR.same (by constructor <;> simp [elapseTime])

/-- Every step that consumes no power cycle. -/
theorem step {s t : State} (hs : ∀ i rest, s.inbox = i :: rest → isPowerCycle i = false)
    (h : Machine.step s = .next t) : R s t := by
  simp only [Machine.step, performNext] at h
  split at h
  · cases h
    exact hR.same (by constructor <;> simp)
  · rename_i i rest hin
    exact hR.trans (hR.same (by constructor <;> simp)) (hR.perform (hs i rest hin) h)

end Closed

/-- A new `RPM_Z` reaches no axis with a command in flight: the host presents nothing then (rule R196). -/
theorem setupForRpm_of_busy {s : State} (h : busyZ s = true) : setupForRpm s = .next s := by simp [setupForRpm, h]

/-- Otherwise it is a SETUP of the Z axis (rules R183, R263). -/
theorem setupForRpm_of_free {s : State} (h : busyZ s = false) : setupForRpm s = setupZ s := by simp [setupForRpm, h]

/-- A host that has booted does not boot again (rules R196, R199). -/
theorem hostBoot_of_booted {s : State} (h : s.host.booted = true) : hostBoot s = .next s := by simp [hostBoot, h]

/-- What a step with a power cycle next answers (rules R250, R251). -/
theorem step_powerCycle {s : State} {time msecOrigin : Nat} {rest : List Input}
    (h : s.inbox = .powerCycle time msecOrigin :: rest) :
    step s = .next (powerCycle time msecOrigin { s with inbox := rest }) := by
  simp [step, performNext, h, perform]

end Sys2Proof.Machine
end

