-- ==== Sys2Proof/Tests/Slice0.lean ====
section
/-! SUPPORT. Tests on single steps, expected values from the spec's examples; a witness for the hypotheses of every
obligation. `decide +kernel` stands where exact rational arithmetic is evaluated. -/

namespace Sys2Proof.Tests

open Sys2Proof.Machine

/-! ### Well-formedness: one ill-formed term for each check, refused; the rest accepted -/

theorem test_wellFormed_refuses_setup : (Instr.setup .y 2#8 5#8 1#16 0x41200000#32).wellFormed Config.vectors = false := by
  decide

theorem test_wellFormed_refuses_dir : (Instr.dir .y .high 1#31).wellFormed Config.vectors = false := by decide

theorem test_wellFormed_refuses_sample : (Instr.sample 1024#32).wellFormed Config.vectors = false := by decide

theorem test_wellFormed_refuses_reserved : (Instr.reserved 0#1 .y).wellFormed Config.vectors = false := by decide

theorem test_wellFormed_refuses_sampleAxisBit : Instr.sampleAxisBit.wellFormed Config.vectors = false := by decide

theorem test_wellFormed_accepts_sample : (Instr.sample 1023#32).wellFormed Config.vectors = true := by decide

/-! ### Decoding: words written out bit by bit (rules R81 to R86, R93, R100) -/

/-- `setup Y, 2, 5, 10.0` (rule R100). -/
theorem test_decode_setup :
    decode { cmd := 0b0000#4, a := 0b0000000000000000_00000101_00000010#32, b := 0x41200000#32 } =
      .setup .y 2#8 5#8 0#16 0x41200000#32 := by decide

/-- `advance Z, 0.25` (rule R100). -/
theorem test_decode_advance :
    decode { cmd := 0b0011#4, a := 0b0_01111101_00000000000000000000000#32, b := 7#32 } = .advance .z 0x3E800000#32 := by
  decide

/-- `rearm Z` (rule R100); the operand ports are ignored. -/
theorem test_decode_rearm : decode { cmd := 0b0101#4, a := 3#32, b := 4#32 } = .rearm .z := by decide

/-- `dir Y, 1` (rule R100). -/
theorem test_decode_dir : decode { cmd := 0b0110#4, a := 0b1#32, b := 0#32 } = .dir .y .high 0#31 := by decide

/-- DIR with its lowest reserved bit set (rules R86, R95). -/
theorem test_decode_dir_reserved : decode { cmd := 0b0111#4, a := 0b10#32, b := 0#32 } = .dir .z .low 1#31 := by decide

/-- `freerun Y` (rule R100). -/
theorem test_decode_freerun : decode { cmd := 0b1000#4, a := 0#32, b := 0#32 } = .freerun .y := by decide

/-- `sample 500` (rule R100). -/
theorem test_decode_sample : decode { cmd := 0b1010#4, a := 0b111110100#32, b := 0#32 } = .sample 500#32 := by decide

/-- Pattern `1011` (rule R95). -/
theorem test_decode_sampleAxisBit : decode { cmd := 0b1011#4, a := 500#32, b := 0#32 } = .sampleAxisBit := by decide

/-- Patterns `110a` and `111a` (rule R94). -/
theorem test_decode_reserved :
    decode { cmd := 0b1100#4, a := 0#32, b := 0#32 } = .reserved 0#1 .y ∧
      decode { cmd := 0b1111#4, a := 0#32, b := 0#32 } = .reserved 1#1 .z := by decide

/-- A number above the last port is no presentation (log 13). -/
theorem test_unpack_refuses : unpack (2 ^ 68) = .error .aboveLastPort := by decide

/-! ### Small states -/

/-- The Y axis of the spec's examples: pins 2 and 5, half-period 15000. -/
def axisAt (sub : SubState) (lastTime : Nat) (target issued : Word) : MotorAxis :=
  { configured := true, stepPin := 2#8, dirPin := 5#8, halfPeriod := 15000, lastTime := lastTime, timeHeld := true,
    target := target, issued := issued, sub := sub }

/-- The Z axis of the spec's examples: pins 3 and 6, half-period 937. -/
def axisZAt (sub : SubState) (lastTime : Nat) (target issued : Word) : MotorAxis :=
  { axisAt sub lastTime target issued with stepPin := 3#8, dirPin := 6#8, halfPeriod := 937 }

/-- A machine whose Y axis is `m`, at true time `time`. -/
def withY (m : MotorAxis) (time : Nat) : State := { State.reset with axisY := m, time := time }

/-- A machine whose Z axis is `m`, at true time `time`. -/
def withZ (m : MotorAxis) (time : Nat) : State := { State.reset with axisZ := m, time := time }

/-- Both axes configured and Idle. -/
def bothIdle : State := { withY (axisAt .idle 5000 0#32 0#32) 20000 with axisZ := axisZAt .idle 5000 0#32 0#32 }

/-- The Y axis in PulseLow, its line HIGH, the low edge just due. -/
def lowDue : State := { withY (axisAt .pulseLow 50000 2#32 1#32) 65000 with out := [2#8] }

/-- A primed filter holding 500. -/
def primedAt (f : Rat) : State := { State.reset with primed := true, filtered := f }

/-- The next state satisfies `f`. -/
def ends (r : Result) (f : State → Bool) : Bool :=
  match r with
  | .next t => f t
  | .fault _ => false
  | .refused _ => false

/-- The fault satisfies `f`. -/
def stops (r : Result) (f : Fault → Bool) : Bool :=
  match r with
  | .next _ => false
  | .fault c => f c
  | .refused _ => false

/-! ### One step each -/

/-- Rule R117's example: `MPR[Y] = 200`, `setup Y, 2, 5, 10.0`. -/
theorem test_setup :
    ends (exec (.setup .y 2#8 5#8 0#16 0x41200000#32) State.reset) (fun t =>
      decide (t.axisY.stepPin = 2#8 ∧ t.axisY.dirPin = 5#8 ∧ t.axisY.halfPeriod = 15000 ∧ t.axisY.sub = .idle ∧
        t.axisY.issued = 0#32 ∧ t.axisY.configured = true)) = true := by decide +kernel

/-- Rules R118, R120 (a): speed 10.0 on 3200 microsteps gives 937; the abandoned target stays. -/
theorem test_setup_abandons :
    ends (exec (.setup .z 3#8 6#8 0#16 0x41200000#32) (withZ (axisZAt .pulseLow 7 9#32 4#32) 8)) (fun t =>
      decide (t.axisZ.halfPeriod = 937 ∧ t.axisZ.sub = .idle ∧ t.axisZ.issued = 0#32 ∧ t.axisZ.target = 9#32 ∧
        t.axisZ.lastTime = 7)) = true := by decide +kernel

/-- Rule R124's example: `MPR[Z] = 3200`, Idle, `@5000 advance Z, 0.25`. -/
theorem test_advance_accepts :
    ends (exec (.advance .z 0x3E800000#32) (withZ (axisZAt .idle 0 0#32 0#32) 5000)) (fun t =>
      decide (t.axisZ.target = 800#32 ∧ t.axisZ.issued = 0#32 ∧ t.axisZ.lastTime = 5000 ∧
        t.axisZ.sub = .pulseHigh ∧ t.ev = [])) = true := by decide +kernel

/-- Rule R127's example: `target = 2`, `issued = 1`, `lastTime = 50000`, `@65000 tick`. -/
theorem test_advance_low_edge :
    ends (exec (Instr.tick .y) lowDue) (fun t =>
      decide (t.line 2#8 = .low ∧ t.axisY.lastTime = 65000 ∧ t.axisY.issued = 2#32 ∧ t.axisY.sub = .done)) = true := by
  decide

/-- Rule R139's example. -/
theorem test_rearm :
    ends (exec (.rearm .z) (withZ (axisZAt .done 0 8#32 8#32) 0)) (fun t =>
      decide (t.axisZ.sub = .idle ∧ t.axisZ.issued = 8#32 ∧ t.axisZ.target = 8#32)) = true := by decide

/-- Rule R141's example: `dirPin[Y] = 5`, `dir Y, 1`. -/
theorem test_dir :
    ends (exec (.dir .y .high 0#31) bothIdle) (fun t =>
      decide (t.line 5#8 = .high ∧ t.ev = [{ pin := 5#8, level := .high, time := none }])) = true := by decide

/-- Rule R150's example: half-period 500, `lastTime = 10000`; `@10499` does nothing. -/
theorem test_freerun_early :
    ends (exec (.freerun .y) (withY { axisAt .idle 10000 0#32 0#32 with halfPeriod := 500 } 10499)) (fun t =>
      decide (t.ev = [] ∧ t.axisY.lastTime = 10000)) = true := by decide

/-- Rule R150's example: `@10500` drives the line HIGH. -/
theorem test_freerun_due :
    ends (exec (.freerun .y) (withY { axisAt .idle 10000 0#32 0#32 with halfPeriod := 500 } 10500)) (fun t =>
      decide (t.line 2#8 = .high ∧ t.axisY.lastTime = 10500)) = true := by decide

/-- Rule R160's example: from reset, `sample 500 -> 2.0`. -/
theorem test_sample_first :
    ends (exec (.sample 500#32) State.reset) (fun t => decide (t.q = 0x40000000#32 ∧ t.filtered = 500)) = true := by
  decide +kernel

/-- Rule R160's example: then `sample 600` leaves `filtered = 510`. -/
theorem test_sample_smooths :
    ends (exec (.sample 600#32) (primedAt 500)) (fun t => decide (t.filtered = 510)) = true := by decide +kernel

/-- Rule R94. -/
theorem test_reserved : exec (.reserved 0#1 .y) State.reset = .fault (.illegal State.reset.ports) := rfl

/-- Rule R95. -/
theorem test_sampleAxisBit : exec .sampleAxisBit State.reset = .fault (.illegal State.reset.ports) := rfl

/-- Rule R112's example across a wrap: `lastTime = 0xFFFFFF00`, `now = 0x3A00`. -/
theorem test_elapsed_wraps : elapsed 32 0x00003A00 0xFFFFFF00 = 15104 := by decide

/-- Rule R100's first line: `@1000 setup Y, 2, 5, 10.0`. -/
theorem test_trace_setup :
    readTraceLine ['@', '1', '0', '0', '0', ' ', 's', 'e', 't', 'u', 'p', ' ', 'Y', ',', ' ', '2', ',', ' ', '5', ',', ' ',
      '1', '0', '.', '0'] = some (.operation (some 1000) (.setup .y 2#8 5#8 10) none) := by decide +kernel

/-- Rule R160's example: `sample 500 -> 2.0`. -/
theorem test_trace_result :
    readTraceLine ['s', 'a', 'm', 'p', 'l', 'e', ' ', '5', '0', '0', ' ', '-', '>', ' ', '2', '.', '0', ' ', ';'] =
      some (.operation none (.sample 500#32) (some 2)) := by decide +kernel

/-- Rule R99: an assertion of an event. -/
theorem test_trace_event :
    readTraceLine ['e', 'x', 'p', 'e', 'c', 't', ' ', 'E', 'V', ' ', '+', '=', ' ', '(', '2', ',', ' ', 'H', 'I', 'G', 'H', ',',
      ' ', '7', ')'] = some (.event { pin := 2#8, level := .high, time := some 7 }) := by decide

/-- Rules R183, R196: a new speed is not presented to an axis with a command in flight. -/
theorem test_rpmSetup_waits :
    step { withZ (axisZAt .pulseLow 7 9#32 4#32) 8 with inbox := [.rpmSetup] } =
      .next (withZ (axisZAt .pulseLow 7 9#32 4#32) 8) := rfl

/-- Rules R196, R199: the boot happens once. -/
theorem test_boot_once :
    step { lowDue with host := { ScanHost.reset with booted := true }, inbox := [.boot] } =
      .next { lowDue with host := { ScanHost.reset with booted := true } } := rfl

/-- Rule R98: the nearest word of 0.004 (rule R125's example). -/
theorem test_nearestNum : nearestNum (mkRat 4 1000) = 0x3B83126F#32 := by decide +kernel

/-! ### Witnesses: for every statement with hypotheses, a state and operands that meet them -/

/-- The Y axis in PulseHigh, just accepted, its high edge just due. -/
def highDue : State := withY (axisAt .pulseHigh 5000 2#32 0#32) 20000

/-- The same one microsecond earlier. -/
def highEarly : State := withY (axisAt .pulseHigh 5000 2#32 0#32) 19999

/-- The Y axis Done. -/
def doneY : State := withY (axisAt .done 65000 2#32 2#32) 65000

/-- An Idle Y axis whose `lastTime` holds no value. -/
def freshY : State := withY { axisAt .idle 0 0#32 0#32 with timeHeld := false } 7

/-- A filter in the median variant, which is refused. -/
def medianState : State := { State.reset with config := { Config.vectors with filter := .median } }

/-- A configuration whose evaluations are the platform's own. -/
def platformConfig : Config :=
  { Config.vectors with
    targetEval := .platform, smoothEval := .platform, halfPeriodEvalY := .platform, halfPeriodEvalZ := .platform }

theorem witness_decodingKeepsTheUsedWords :
    opcodeOf 0b0001#4 = 0b000#3 ∧ opcodeOf 0b0010#4 = 0b001#3 ∧ opcodeOf 0b0111#4 = 0b011#3 := by decide

theorem witness_stepRunsTheDecodedOperation :
    ({ State.reset with inbox := [.present (encode (.rearm .z))] } : State).inbox = .present (encode (.rearm .z)) :: [] ∧
      decodeTableWord 4 0b0101 = some (.rearm .z) := by decide

theorem witness_waitingChangesNothing : State.reset.inbox = [] := rfl

theorem witness_powerCycleIsReset :
    ({ lowDue with inbox := [.powerCycle 9 8] } : State).inbox = .powerCycle 9 8 :: [] := rfl

theorem witness_everyStop_illegal : (Instr.dir .y .high 1#31).wellFormed lowDue.config = false := by decide

theorem witness_everyStop_operand :
    (Instr.advance .y 0x7F800000#32).wellFormed lowDue.config = true ∧
      operandOk (.advance .y 0x7F800000#32) lowDue = false := by decide

theorem witness_everyStop_unconfigured :
    (Instr.rearm .z).wellFormed lowDue.config = true ∧ operandOk (.rearm .z) lowDue = true ∧
      axisReady (.rearm .z) lowDue = false := by decide

theorem witness_everyStop_protocol :
    (Instr.freerun .y).wellFormed lowDue.config = true ∧ operandOk (.freerun .y) lowDue = true ∧
      axisReady (.freerun .y) lowDue = true ∧ protocolOk (.freerun .y) lowDue = false := by decide

theorem witness_everyStop_refused :
    (Instr.sample 1023#32).wellFormed medianState.config = true ∧ operandOk (.sample 1023#32) medianState = true ∧
      axisReady (.sample 1023#32) medianState = true ∧ protocolOk (.sample 1023#32) medianState = true ∧
      variantOk (.sample 1023#32) medianState = false := by decide

theorem witness_everyStop_none :
    (Instr.freerun .y).wellFormed bothIdle.config = true ∧ operandOk (.freerun .y) bothIdle = true ∧
      axisReady (.freerun .y) bothIdle = true ∧ protocolOk (.freerun .y) bothIdle = true ∧
      variantOk (.freerun .y) bothIdle = true := by decide

theorem witness_reservedOpcodesFault : opcodeOf 0b1101#4 = 0b110#3 ∧ opcodeOf 0b1110#4 = 0b111#3 := by decide

theorem witness_reservedBitsFault_setup :
    opcodeOf 0b0000#4 = 0b000#3 ∧ (0x80000502#32 : Word).extractLsb' 16 16 ≠ 0#16 := by decide

theorem witness_reservedBitsFault_dir : opcodeOf 0b0110#4 = 0b011#3 ∧ (3#32 : Word).extractLsb' 1 31 ≠ 0#31 := by decide

theorem witness_reservedBitsFault_sample : 2 ^ State.reset.config.rawBits ≤ (1024#32 : Word).toNat := by decide

theorem witness_reservedBitsFault_ignored : opcodeOf 0b0101#4 ≠ 0b000#3 ∧ opcodeOf 0b1001#4 = 0b100#3 := by decide

theorem witness_operandFaultCauses_setup :
    exec (.setup .y 2#8 2#8 0#16 0x41200000#32) State.reset = .fault (.operand State.reset.ports) := rfl

theorem witness_operandFaultCauses_advance :
    numExponent 0x7F800000#32 = 255 ∧ 2 ^ 31 - 1 < targetOf Config.vectors .y 0x4E000000#32 := by decide +kernel

theorem witness_operandFaultCauses_others :
    (∀ a sp dp rsv speed, Instr.rearm .y ≠ .setup a sp dp rsv speed) ∧ ∀ a r, Instr.rearm .y ≠ .advance a r :=
  ⟨fun _ _ _ _ _ h => (by cases h), fun _ _ h => (by cases h)⟩

theorem witness_unconfiguredAxisFaults :
    (State.reset.axis .z).configured = false ∧ numFinite 0x3F800000#32 = true ∧
      targetOf State.reset.config .z 0x3F800000#32 ≤ 2 ^ 31 - 1 := by decide +kernel

theorem witness_numWordValue :
    numExponent 0x00800000#32 = 1 ∧ numExponent 0xFF7FFFFF#32 = 254 ∧ numExponent 0x807FFFFF#32 = 0 := by decide

theorem witness_defaultHalfPeriod :
    numFinite 0x3F800000#32 = true ∧ Config.vectors.halfPeriodEval .y = .exact ∧ 0 < numVal 0x3F800000#32 ∧
      numFinite 0xBF800000#32 = true ∧ numVal 0xBF800000#32 ≤ 0 := by decide +kernel

theorem witness_targetIsTruncatedProduct :
    numFinite 0xBF800000#32 = true ∧ Config.vectors.targetEval = .exact ∧ 0 < numVal 0x3F800000#32 ∧
      numVal 0xBF800000#32 < 0 ∧ numVal 0x80000000#32 = 0 := by decide +kernel

theorem witness_evaluationsAgree_target :
    numFinite 0x3E800000#32 = true ∧ numFinite 0x42480000#32 = true ∧
      numVal 0x42480000#32 = numVal 0x3E800000#32 * (platformConfig.mpr .y : ℚ) := by decide +kernel

theorem witness_evaluationsAgree_smooth :
    numFinite 0x43FF0000#32 = true ∧
      numVal 0x43FF0000#32 = platformConfig.alpha * ((600 : Nat) : ℚ) + (1 - platformConfig.alpha) * 500 := by
  decide +kernel

/-- Speed 10.0 on 200 microsteps: the quotient 15000 is a NUM value (rules R9, R118). -/
theorem witness_evaluationsAgree_halfPeriod :
    numFinite 0x41200000#32 = true ∧ 0 < numVal 0x41200000#32 ∧ numFinite 0x466A6000#32 = true ∧
      numVal 0x466A6000#32 = 30000000 / (numVal 0x41200000#32 * (platformConfig.mpr .y : ℚ)) ∧
      platformConfig.halfPeriodEval .y ≠ .linear := by decide +kernel

/-- Rule R118's example for 3200 microsteps, with the other axis in linear units: each axis has its own derivation. -/
theorem test_halfPeriod_axes :
    halfPeriodOf { Config.vectors with halfPeriodEvalY := .linear } .z 0x41200000#32 = some 937 := by decide +kernel

/-- The invariant of a state with a pulse on the wire. -/
theorem lowDue_inv : lowDue.Inv := by
  refine ⟨by decide, ?_, ?_, by unfold AxesApart; decide⟩ <;> constructor <;> decide

theorem witness_pinsOkMeaning : lowDue.Inv ∧ (lowDue.axis .y).configured = true := ⟨lowDue_inv, rfl⟩

theorem witness_elapsedTimeIsModular : 5 ≤ 2 ^ 32 + 4 ∧ 2 ^ 32 + 4 - 5 < 2 ^ 32 := by decide

theorem witness_setup_illegal : (1#16 : BitVec 16) ≠ 0#16 := by decide

theorem witness_setup_operand :
    numFinite 0x7FC00000#32 = false ∧ pinsOk State.reset .y 2#8 2#8 = false ∧
      halfPeriodOf Config.vectors .y 0x80000000#32 = none ∧ halfPeriodOf Config.vectors .y 0x48927C01#32 = some 0 := by
  decide +kernel

theorem witness_setup_least :
    numFinite 0x48127C00#32 = true ∧ pinsOk State.reset .y 2#8 5#8 = true ∧
      halfPeriodOf State.reset.config .y 0x48127C00#32 = some 1 := by decide +kernel

theorem witness_setup_greatest :
    halfPeriodOf { Config.vectors with tw := 14 } .y 0x41200000#32 = some 15000 ∧ 15000 ≤ 2 ^ 14 - 1 := by
  decide +kernel

theorem witness_advanceAcceptsACommand :
    (bothIdle.axis .y).configured = true ∧ (bothIdle.axis .y).sub = .idle ∧ numFinite 0x3BA3D70B#32 = true ∧
      numVal 0x3BA3D70B#32 ≠ 0 ∧ targetOf bothIdle.config .y 0x3BA3D70B#32 = 1 := by decide +kernel

theorem witness_advanceAcceptsACommand_then :
    ∃ v, exec (Instr.tick .y) highDue = .next v ∧ v.ev ≠ highDue.ev ∧
      highDue.axis .y = { bothIdle.axis .y with target := 2#32, issued := 0#32, lastTime := 5000, sub := .pulseHigh } :=
  ⟨_, rfl, by decide, by decide⟩

theorem witness_advanceWithoutACommand :
    numVal 0x80000000#32 = 0 ∧ targetOf bothIdle.config .y 0x3B83126F#32 = 0 ∧ numFinite 0x3B83126F#32 = true ∧
      (bothIdle.axis .y).configured = true ∧ (bothIdle.axis .y).sub = .idle := by decide +kernel

theorem witness_advanceMakesTheHighEdge :
    (highDue.axis .y).configured = true ∧ (highDue.axis .y).sub = .pulseHigh ∧ numFinite 0#32 = true ∧
      targetOf highDue.config .y 0#32 ≤ 2 ^ 31 - 1 ∧
      ((highDue.axis .y).halfPeriod : ℤ) =
        ((highDue.time : ℤ) - ((highDue.axis .y).lastTime : ℤ)) % ((2 ^ highDue.config.tw : ℕ) : ℤ) := by decide

theorem witness_advanceMakesTheHighEdge_early :
    (highEarly.axis .y).configured = true ∧ (highEarly.axis .y).sub = .pulseHigh ∧
      ((highEarly.time : ℤ) - ((highEarly.axis .y).lastTime : ℤ)) % ((2 ^ highEarly.config.tw : ℕ) : ℤ) <
        ((highEarly.axis .y).halfPeriod : ℤ) := by decide

theorem witness_advanceMakesTheLowEdge :
    (lowDue.axis .y).configured = true ∧ (lowDue.axis .y).sub = .pulseLow ∧
      ((lowDue.axis .y).halfPeriod : ℤ) =
        ((lowDue.time : ℤ) - ((lowDue.axis .y).lastTime : ℤ)) % ((2 ^ lowDue.config.tw : ℕ) : ℤ) := by decide

theorem witness_advanceMakesTheLowEdge_early :
    ((64999 : ℤ) - ((lowDue.axis .y).lastTime : ℤ)) % ((2 ^ lowDue.config.tw : ℕ) : ℤ) <
      ((lowDue.axis .y).halfPeriod : ℤ) := by decide

theorem witness_advanceSelfResetsFromDone :
    (doneY.axis .y).configured = true ∧ (doneY.axis .y).sub = .done ∧ numFinite 0x3F800000#32 = true ∧
      targetOf doneY.config .y 0x3F800000#32 ≤ 2 ^ 31 - 1 := by decide +kernel

theorem witness_busyAxisIgnoresRevolutions :
    (lowDue.axis .y).sub ≠ .idle ∧ numFinite 0#32 = true ∧ targetOf lowDue.config .y 0#32 ≤ 2 ^ 31 - 1 := by decide

theorem witness_targetsFit :
    numFinite 0x4E000000#32 = true ∧ 2 ^ 31 - 1 < targetOf lowDue.config .y 0x4E000000#32 := by decide +kernel

theorem witness_countersNeverWrap :
    lowDue.Inv ∧ (∃ t, exec (Instr.tick .y) lowDue = .next t) ∧ (lowDue.axis .y).sub = .pulseLow ∧
      timeTest lowDue .y (readUsec lowDue) = true := ⟨lowDue_inv, ⟨_, rfl⟩, rfl, by decide⟩

theorem witness_advanceNeverDoes :
    (∃ t, exec (Instr.tick .y) bothIdle = .next t) ∧ (bothIdle.axis .y).sub = .idle := ⟨⟨_, rfl⟩, rfl⟩

theorem witness_rearmReturnsToIdle :
    (State.reset.axis .y).configured = false ∧ (lowDue.axis .y).configured = true := by decide

theorem witness_dirDrivesTheDirectionLine :
    (1#31 : BitVec 31) ≠ 0#31 ∧ (State.reset.axis .y).configured = false ∧ (lowDue.axis .y).configured = true := by decide

theorem witness_freerunTogglesWhenDue :
    (lowDue.axis .y).configured = true ∧ (lowDue.axis .y).sub ≠ .idle ∧ (bothIdle.axis .y).configured = true ∧
      (bothIdle.axis .y).sub = .idle ∧ (bothIdle.axis .y).timeHeld = true ∧
      ((bothIdle.axis .y).halfPeriod : ℤ) =
        ((bothIdle.time : ℤ) - ((bothIdle.axis .y).lastTime : ℤ)) % ((2 ^ bothIdle.config.tw : ℕ) : ℤ) := by decide

theorem witness_freerunTogglesWhenDue_early :
    let s := withY (axisAt .idle 5000 0#32 0#32) 19999
    (s.axis .y).configured = true ∧ (s.axis .y).sub = .idle ∧ (s.axis .y).timeHeld = true ∧
      ((s.time : ℤ) - ((s.axis .y).lastTime : ℤ)) % ((2 ^ s.config.tw : ℕ) : ℤ) < ((s.axis .y).halfPeriod : ℤ) := by
  decide

theorem witness_firstFreerunOnlyRecords :
    (freshY.axis .y).configured = true ∧ (freshY.axis .y).sub = .idle ∧ (freshY.axis .y).timeHeld = false := by decide

theorem witness_freerunCountsNothing : ∃ t, exec (.freerun .y) bothIdle = .next t := ⟨_, rfl⟩

theorem witness_firstSample :
    (1023#32 : Word).toNat < 2 ^ State.reset.config.rawBits ∧ State.reset.config.filter = .exponential ∧
      State.reset.primed = false ∧ 0 < (1023#32 : Word).toNat := by decide

theorem witness_nothingUnprimesTheFilter :
    (∃ t, exec (Instr.tick .y) { lowDue with primed := true } = .next t) ∧
      ∀ operand, Instr.tick .y ≠ .sample operand := ⟨⟨_, rfl⟩, fun _ h => by cases h⟩

theorem witness_sampleSmooths :
    (1023#32 : Word).toNat < 2 ^ (primedAt 500).config.rawBits ∧ (primedAt 500).config.filter = .exponential ∧
      (primedAt 500).primed = true ∧ (primedAt 500).config.smoothEval = .exact := by decide

theorem witness_sampleSmooths_positive : 0 < smooth (primedAt 500).config 600 500 := by decide +kernel

theorem witness_sampleSmooths_zero : smooth (primedAt 0).config 0 0 ≤ 0 := by decide +kernel

/-- The law under the vectors' constants, `1000 / f` (rule R162). -/
theorem vectors_calLaw (f : ℚ) : calLaw Config.vectors f = 1000 * (f : ℝ)⁻¹ := by
  rw [calLaw, show Config.vectors.calA = .rational (-1) from rfl, show Config.vectors.calB = .rational 3 from rfl]
  simp only [RealConstant.value]
  push_cast
  rw [Real.rpow_neg_one, show (3 : ℝ) = ((3 : ℕ) : ℝ) by norm_num, Real.rpow_natCast]
  norm_num

theorem witness_calibrationIsExact :
    CalExactOk Config.vectors ∧ (0 : ℚ) < 500 ∧ numFinite 0x40000000#32 = true ∧
      (numVal 0x40000000#32 : ℝ) = calLaw Config.vectors 500 := by
  refine ⟨.inl ⟨_, _, rfl, rfl⟩, by norm_num, by decide, ?_⟩
  rw [vectors_calLaw, show numVal 0x40000000#32 = 2 by decide +kernel]
  norm_num

/-- The calibrations of 250 and 500 are 4 and 2, so that both states are among those the order is stated over. -/
theorem witness_calibrationIsMonotone :
    CalExactOk Config.vectors ∧ (250 : ℚ) ∈ calExactStates Config.vectors ∧
      (500 : ℚ) ∈ calExactStates Config.vectors ∧ (0 : ℚ) < 250 ∧ (250 : ℚ) < 500 ∧
      Config.vectors.calA.value < 0 := by
  refine ⟨.inl ⟨_, _, rfl, rfl⟩, ⟨by norm_num, 0x40800000#32, by decide, ?_⟩, ⟨by norm_num, 0x40000000#32, by decide, ?_⟩,
    by norm_num, by norm_num, ?_⟩
  · rw [vectors_calLaw, show numVal 0x40800000#32 = 4 by decide +kernel]; norm_num
  · rw [vectors_calLaw, show numVal 0x40000000#32 = 2 by decide +kernel]; norm_num
  · rw [show Config.vectors.calA = .rational (-1) from rfl]; norm_num [RealConstant.value]

/-- A constant of which nothing is known leaves a right list of exact values possible (log 8). -/
theorem witness_calExactOk_named :
    ∃ c : Config, c.calA = .rational 0 ∧ c.calB = .named 0 ∧ CalExactOk c := by
  let law : ℝ := (10 : ℝ) ^ Config.namedReal 0
  have value : ∀ (l : List (Rat × Word)) (f : Rat), 0 < f →
      calLaw { Config.vectors with calA := .rational 0, calB := .named 0, calExact := l } f = law := by
    intro l f _; simp [calLaw, RealConstant.value, law]
  by_cases h : ∃ w, numFinite w = true ∧ (numVal w : ℝ) = law
  · obtain ⟨v, hv, e⟩ := h
    refine ⟨{ Config.vectors with calA := .rational 0, calB := .named 0, calExact := [(1, v)] }, rfl, rfl,
      .inr (fun f w hf hw hl => ⟨v, ?_, hv, ?_⟩)⟩
    · simp [calKey]
    · rw [value _ f hf, ← e] at hl; exact_mod_cast hl.symm
  · refine ⟨{ Config.vectors with calA := .rational 0, calB := .named 0, calExact := [] }, rfl, rfl,
      .inr (fun f w hf hw hl => absurd ⟨w, hw, ?_⟩ h)⟩
    rw [value _ f hf] at hl; exact hl

/-- A constant that is no rational: the word is the one the parameter record lists (rule R9; log 8). -/
theorem test_calibration_listed :
    calPositive { Config.vectors with calA := .named 0, calExact := [(500, 0x40000000#32)] } 500 = 0x40000000#32 := by
  decide +kernel

/-- Rule R162 with a broken exponent: `10^(1/2) * 160^(1/2) = 40`. -/
theorem test_calibration_root :
    calPositive { Config.vectors with calA := .rational (mkRat 1 2), calB := .rational (mkRat 1 2) } 160 =
      0x42200000#32 := by
  decide +kernel

theorem witness_calibrationIsOneFunction :
    Config.vectors.calA = platformConfig.calA ∧ Config.vectors.calB = platformConfig.calB ∧
      Config.vectors.calExact = platformConfig.calExact := ⟨rfl, rfl, rfl⟩

theorem witness_calibrationOfZero :
    (0#32 : Word).toNat < 2 ^ State.reset.config.rawBits ∧ State.reset.config.filter = .exponential ∧
      (State.reset.primed = false ∧ (0#32 : Word).toNat = 0) ∧
      ((primedAt 0).primed = true ∧ smooth (primedAt 0).config (0#32 : Word).toNat (primedAt 0).filtered = 0) := by
  decide +kernel

theorem witness_resultIsFreeButForSample :
    (∀ operand, Instr.rearm .y ≠ .sample operand) ∧ ∃ t, exec (.rearm .y) lowDue = .next t :=
  ⟨fun _ h => (by cases h), ⟨_, rfl⟩⟩

theorem witness_filterConvergesGeometrically :
    (600#32 : Word).toNat < 2 ^ (primedAt 500).config.rawBits ∧ (primedAt 500).config.filter = .exponential ∧
      (primedAt 500).config.smoothEval = .exact ∧ (primedAt 500).primed = true ∧ 0 < (primedAt 500).config.alpha ∧
      (primedAt 500).config.alpha ≤ 1 ∧ (0 : ℚ) < 1 := by decide +kernel

theorem witness_filterStaysInRange :
    FilterInRange (primedAt 1023) ∧ (primedAt 1023).config.smoothEval = .exact ∧ 0 < (primedAt 1023).config.alpha ∧
      (primedAt 1023).config.alpha ≤ 1 ∧ ∃ t, step (primedAt 1023) = .next t := by
  refine ⟨fun _ => ⟨by norm_num [primedAt], ?_⟩, rfl, by decide +kernel, by decide +kernel, _, rfl⟩
  norm_num [primedAt, State.reset, State.resetWith, Config.vectors]

/-- The same for a register of NUM words: 500 is one, in the platform's evaluation (rules R62, R164). -/
theorem witness_filterStaysNum :
    let s : State := { primedAt 500 with config := platformConfig }
    FilterIsNum s ∧ s.config.smoothEval = .platform ∧ s.config.rawBits ≤ 24 ∧ ∃ t, step s = .next t :=
  ⟨fun _ => ⟨0x43FA0000#32, by decide +kernel⟩, rfl, by decide, _, rfl⟩

theorem witness_statusPorts :
    (lowDue.axis .y).configured = true ∧ (lowDue.axis .z).configured = false := by decide

theorem witness_everyStepKeepsTheInvariant :
    lowDue.Inv ∧ ∃ t, step { lowDue with inbox := [.present (encode (Instr.tick .y))] } = .next t :=
  ⟨lowDue_inv, _, rfl⟩

theorem witness_subStateEdges :
    (∃ t, exec (Instr.tick .y) lowDue = .next t) ∧ (lowDue.axis .y).configured = true := ⟨⟨_, rfl⟩, rfl⟩

theorem witness_axesAreIndependent :
    axisOf (Instr.tick .y) ≠ some .z ∧ isSetup (Instr.tick .y) = false ∧
      ∃ t, exec (Instr.tick .y) lowDue = .next t := ⟨by decide, rfl, _, rfl⟩

theorem witness_operationsOnDifferentAxesCommute :
    axisOf (.freerun .y) = some .y ∧ axisOf (.rearm .z) = some .z ∧ Axis.y ≠ .z ∧ isSetup (.freerun .y) = false ∧
      isSetup (.rearm .z) = false ∧ AxesApart bothIdle ∧
      ∃ s1 s2, exec (.freerun .y) bothIdle = .next s1 ∧ exec (.rearm .z) s1 = .next s2 :=
  ⟨rfl, rfl, by decide, rfl, rfl, by unfold AxesApart; decide, _, _, rfl, rfl⟩

theorem witness_onlySetupConfigures :
    (∃ t, exec (Instr.tick .y) lowDue = .next t) ∧ ∀ sp dp rsv speed, Instr.tick .y ≠ .setup .y sp dp rsv speed :=
  ⟨⟨_, rfl⟩, fun _ _ _ _ h => by cases h⟩

theorem witness_linesChangeOnlyByRecordedWrites : ∃ t, exec (.dir .y .high 0#31) lowDue = .next t := ⟨_, rfl⟩

theorem witness_parametersStayAndTimeGoesOn :
    let s : State := { lowDue with inbox := [.elapse 5] }
    (∃ t, step s = .next t) ∧ ∀ i rest, s.inbox = i :: rest → isPowerCycle i = false :=
  ⟨⟨_, rfl⟩, fun _ _ h => by cases h; rfl⟩

theorem witness_edgesAreAHalfPeriodApart :
    let s : State := { highDue with inbox := [.elapse 15000] }
    ∃ t u v, drivesStepLine .y (Instr.tick .y) ∧ exec (Instr.tick .y) s = .next t ∧ t.ev ≠ s.ev ∧
      (∀ x ∈ t.inbox, isPowerCycle x = false) ∧ Host.Core.run Sys2Proof.core 1 t = .next u ∧
      exec (Instr.tick .y) u = .next v ∧ v.ev ≠ u.ev :=
  ⟨_, _, _, rfl, rfl, by decide, by decide, rfl, rfl, by decide⟩

theorem witness_commandMakesExactlyItsPulses :
    (highDue.axis .y).configured = true ∧ (highDue.axis .y).sub = .pulseHigh ∧ (highDue.axis .y).issued = 0#32 ∧
      0 < (highDue.axis .y).target.toNat ∧ (highDue.axis .y).target.toNat ≤ 2 ^ 31 - 1 ∧
      ∃ t, runCommand .y [(0, 0#32), (15000, 0#32)] highDue = .next t :=
  ⟨by decide, by decide, by decide, by decide, by decide, _, rfl⟩

/-- A command of one step, just accepted. -/
def oneStep : State := withY (axisAt .pulseHigh 5000 1#32 0#32) 5000

theorem witness_commandTakesItsTime :
    (oneStep.axis .y).configured = true ∧ (oneStep.axis .y).sub = .pulseHigh ∧ (oneStep.axis .y).issued = 0#32 ∧
      0 < (oneStep.axis .y).target.toNat ∧ (oneStep.axis .y).target.toNat ≤ 2 ^ 31 - 1 ∧
      (oneStep.axis .y).lastTime = oneStep.time % 2 ^ oneStep.config.tw ∧
      ∃ t, runCommand .y [(15000, 0#32), (15000, 0#32)] oneStep = .next t ∧ (t.axis .y).sub = .done :=
  ⟨by decide, by decide, by decide, by decide, by decide, by decide, _, rfl, by decide⟩

theorem witness_timelyTicksCompleteTheCommand :
    (∀ x ∈ [(15000, 0#32), (15000, 0#32)], (oneStep.axis .y).halfPeriod ≤ x.1 ∧ x.1 < 2 ^ oneStep.config.tw ∧
      numFinite x.2 = true ∧ targetOf oneStep.config .y x.2 ≤ 2 ^ 31 - 1) ∧
    [(15000, 0#32), (15000, 0#32)].length = 2 * (oneStep.axis .y).target.toNat := by decide

theorem witness_hostLeavesReturn :
    let s : State := { bothIdle with limBot := .low }
    s.host.phase = .ret ∧ s.limBot = .low ∧ s.axisY.configured = true ∧
      numFinite s.config.host.speedYFine = true ∧
      pinsOk s .y s.config.host.stepPinY s.config.host.dirPinY = true ∧
      legalHalfPeriod s.config .y s.config.host.speedYFine = some 15000 := by decide +kernel

theorem witness_hostAborts :
    let s : State := { lowDue with limTop := .low, host := { ScanHost.reset with phase := .linear } }
    s.host.phase = .linear ∧ s.limTop = .low ∧ s.axisY.configured = true ∧
      numFinite s.config.host.speedYRapid = true ∧
      pinsOk s .y s.config.host.stepPinY s.config.host.dirPinY = true ∧
      legalHalfPeriod s.config .y s.config.host.speedYRapid = some 250 := by decide +kernel

/-- The carriage at the top with a rapid speed of zero, which SETUP does not take (rule R118). -/
def abortFaults : State :=
  { lowDue with
    limTop := .low, host := { ScanHost.reset with phase := .linear },
    config := { Config.vectors with host := { HostConfig.vectors with speedYRapid := 0#32 } } }

theorem witness_hostAborts_fault :
    abortFaults.host.phase = .linear ∧ abortFaults.limTop = .low ∧ abortFaults.axisY.configured = true ∧
      legalHalfPeriod abortFaults.config .y abortFaults.config.host.speedYRapid = none := by decide +kernel

/-- Rule R233: the DIR before the SETUP that faults has driven the line. -/
theorem test_fault_keeps_earlier_operations :
    stops (hostTick abortFaults) (fun f =>
      decide (faultCode f = 2 ∧ (stateAtFault abortFaults f).line 5#8 = .high ∧
        (stateAtFault abortFaults f).ev = [{ pin := 5#8, level := .high, time := none }])) = true := by
  decide +kernel

theorem witness_hostCompletesALayer :
    let s : State := { lowDue with host := { ScanHost.reset with phase := .linear } }
    s.host.phase = .linear ∧ s.limTop = .high ∧ s.axisY.configured = true ∧ s.axisY.sub = .pulseLow ∧
      timeTest s .y (readUsec s) = true ∧ s.axisY.target.toNat ≤ (s.axisY.issued + 1#32).toNat := by decide

/-- Rotate at the last slice, the slice's last low edge due. -/
def lastSlice : State :=
  { withZ (axisZAt .pulseLow 100 8#32 7#32) 1037 with
    out := [3#8], adc := 1023#32, host := { ScanHost.reset with phase := .rotate, slice := 359 } }

theorem witness_hostSamplesASlice :
    lastSlice.host.phase = .rotate ∧ lastSlice.host.slice < lastSlice.config.host.slicesPerRev ∧
      lastSlice.axisZ.configured = true ∧ lastSlice.axisZ.sub = .pulseLow ∧
      timeTest lastSlice .z (readUsec lastSlice) = true ∧
      lastSlice.axisZ.target.toNat ≤ (lastSlice.axisZ.issued + 1#32).toNat ∧
      lastSlice.adc.toNat < 2 ^ lastSlice.config.rawBits ∧ lastSlice.config.filter = .exponential := by decide

/-- A channel of 1024, one more than ten bits hold (rule R95). -/
theorem witness_hostSamplesASlice_fault :
    let s : State := { lastSlice with adc := 1024#32 }
    s.host.phase = .rotate ∧ s.host.slice < s.config.host.slicesPerRev ∧ s.axisZ.configured = true ∧
      s.axisZ.sub = .pulseLow ∧ timeTest s .z (readUsec s) = true ∧
      s.axisZ.target.toNat ≤ (s.axisZ.issued + 1#32).toNat ∧ 2 ^ s.config.rawBits ≤ s.adc.toNat := by decide

/-- Rule R233: the ADVANCE before the SAMPLE that faults has made its edge and counted it. -/
theorem test_fault_keeps_the_edge :
    stops (hostTick { lastSlice with adc := 1024#32 }) (fun f =>
      decide (faultCode f = 1 ∧ (stateAtFault lastSlice f).line 3#8 = .low ∧
        (stateAtFault lastSlice f).axisZ.issued = 8#32 ∧ (stateAtFault lastSlice f).axisZ.sub = .done)) = true := by
  decide +kernel

/-- A reading far off is valid, a near one is not (rule R194, `R_CM = 14`, margin 5). -/
theorem witness_hostSamplesASlice_valid :
    numValue lastSlice.host.radius + lastSlice.config.host.marginCm < numValue 0x41A00000#32 ∧
      numValue 0x41980000#32 ≤ numValue lastSlice.host.radius + lastSlice.config.host.marginCm := by decide +kernel

theorem witness_hostPhaseGraph_ret : ∃ t, hostTick bothIdle = .next t ∧ bothIdle.host.phase = .ret := ⟨_, rfl, rfl⟩

theorem witness_hostPhaseGraph_linear :
    let s : State := { lowDue with host := { ScanHost.reset with phase := .linear } }
    ∃ t, hostTick s = .next t ∧ s.host.phase = .linear ∧ s.limTop = .high := ⟨_, rfl, rfl, rfl⟩

theorem witness_hostPhaseGraph_overTravel :
    let s : State := { lowDue with limTop := .low, host := { ScanHost.reset with phase := .linear } }
    ends (hostTick s) (fun _ => true) = true ∧ s.host.phase = .linear ∧ s.limTop = .low := by decide +kernel

theorem witness_hostPhaseGraph_wrap :
    let s : State := { bothIdle with host := { ScanHost.reset with phase := .rotate, slice := 360 } }
    ∃ t, hostTick s = .next t ∧ s.host.phase = .rotate ∧ s.config.host.slicesPerRev ≤ s.host.slice ∧ SliceInRange s :=
  ⟨_, rfl, rfl, le_refl _, le_refl _⟩

theorem witness_hostPhaseGraph_slices :
    lastSlice.host.phase = .rotate ∧ lastSlice.host.slice < lastSlice.config.host.slicesPerRev := by decide

theorem witness_sliceIndexStaysInRange : SliceInRange lastSlice ∧ ∃ t, step lastSlice = .next t :=
  ⟨by unfold SliceInRange; decide, _, rfl⟩

theorem witness_coordinatesPrint : Config.vectors.host.decimals = .nearest := rfl

end Sys2Proof.Tests
end

section
/-! PROOFS. Lines, parameters and time: what one operation writes, what no step changes (spec/00_scope.md). -/

namespace Sys2Proof.Machine

/-- Lines and history that are the same as data are the same line by line. -/
theorem sameLines_of_out_ev {s t : State} (hout : t.out = s.out) (hev : t.ev = s.ev) : SameLines s t :=
  ⟨fun p => by simp [State.line, hout], hev⟩

/-- Lines and history that are those of one `writeLine` are one recorded write, whatever else the operation did. -/
theorem wroteLine_of_out_ev {p : Pin} {level : Level} {time : Option Nat} {s t : State}
    (hout : t.out = (writeLine p level time s).out) (hev : t.ev = (writeLine p level time s).ev) :
    WroteLine p level time s t := by
  have line (x : Pin) : t.line x = (writeLine p level time s).line x := by simp only [State.line, hout]
  exact ⟨(line p).trans (line_writeLine_same p level time s),
    fun x hx => (line x).trans (line_writeLine_ne level time s hx), hev⟩

/-- The lines and the history after an operation: none written, or one write, recorded (rules R11 (b), R46). -/
def LinesRecorded (s t : State) : Prop := SameLines s t ∨ ∃ p level time, WroteLine p level time s t

theorem LinesRecorded.same {s t : State} (hout : t.out = s.out) (hev : t.ev = s.ev) : LinesRecorded s t :=
  .inl (sameLines_of_out_ev hout hev)

theorem LinesRecorded.wrote {p : Pin} {level : Level} {time : Option Nat} {s t : State}
    (hout : t.out = (writeLine p level time s).out) (hev : t.ev = (writeLine p level time s).ev) :
    LinesRecorded s t :=
  .inr ⟨p, level, time, wroteLine_of_out_ev hout hev⟩

/-- ADVANCE writes a line on its two edges alone (rules R124 to R128). -/
theorem linesRecorded_advanceAxis (a : Axis) (r : Word) (now : Nat) (s : State) :
    LinesRecorded s (drawResult (advanceAxis a r now s)) := by
  rcases advanceAxis_cases a r now s with
    ⟨-, -, h⟩ | ⟨-, -, h⟩ | ⟨-, -, h⟩ | ⟨-, -, h⟩ | ⟨-, -, h⟩ | ⟨-, h⟩ <;> rw [h]
  · exact .same (by simp [acceptCommand]) (by simp [acceptCommand])
  · exact .same (by simp) (by simp)
  · exact .same (by simp) (by simp)
  · exact .wrote (out_setAxis _ _ _) (ev_setAxis _ _ _)
  · exact .wrote (out_setAxis _ _ _) (ev_setAxis _ _ _)
  · exact .same (by simp) (by simp)

/-- FREERUN writes a line in its toggle alone (rules R150, R151). -/
theorem linesRecorded_freerunAxis (a : Axis) (now : Nat) (s : State) :
    LinesRecorded s (drawResult (freerunAxis a now s)) := by
  rcases freerunAxis_cases a now s with ⟨-, h⟩ | ⟨-, -, h⟩ | ⟨-, -, h⟩ <;> rw [h]
  · exact .same (by simp) (by simp)
  · exact .wrote (out_setAxis _ _ _) (ev_setAxis _ _ _)
  · exact .same (by simp) (by simp)

/-- SAMPLE's calibration writes no line (rule R162). -/
theorem linesRecorded_calibrate (s : State) : LinesRecorded s (calibrate s) := by
  rcases calibrate_cases s with ⟨-, h⟩ | ⟨-, h⟩ <;> rw [h] <;> exact .same rfl rfl

theorem exec_linesRecorded {i : Instr} {s t : State} (h : exec i s = .next t) : LinesRecorded s t := by
  cases i with
  | setup a sp dp rsv speed =>
    obtain ⟨-, -, -, hp, -, rfl⟩ := execSetup_eq_next.mp h
    exact .same (by simp) (by simp)
  | advance a r =>
    obtain ⟨-, -, -, rfl⟩ := execAdvance_eq_next.mp h
    exact linesRecorded_advanceAxis a r (readUsec s) s
  | rearm a =>
    obtain ⟨-, rfl⟩ := execRearm_eq_next.mp h
    exact .same (by simp) (by simp)
  | dir a level rsv =>
    obtain ⟨-, -, rfl⟩ := execDir_eq_next.mp h
    exact .wrote rfl rfl
  | freerun a =>
    obtain ⟨-, -, rfl⟩ := execFreerun_eq_next.mp h
    exact linesRecorded_freerunAxis a (readUsec s) s
  | sample operand =>
    obtain ⟨-, -, rfl⟩ := execSample_eq_next.mp h
    exact linesRecorded_calibrate _
  | reserved x a => exact absurd h (raise_ne_next _ _ _)
  | sampleAxisBit => exact absurd h (raise_ne_next _ _ _)

/-- Settles O48, by the operations one at a time: SETUP, REARM and SAMPLE write no line, DIR writes one, ADVANCE and
FREERUN one or none. -/
theorem linesChangeOnlyByRecordedWrites : Obligations.LinesChangeOnlyByRecordedWrites :=
  fun _ _ _ => exec_linesRecorded

/-- The parameters are kept and true time does not run backwards (rules R35, R239). -/
def KeepsConfigAdvancesTime (s t : State) : Prop := t.config = s.config ∧ s.time ≤ t.time

/-- Every operation keeps them, because it touches nothing outside the block. -/
theorem keepsConfigAdvancesTime_closed : Closed KeepsConfigAdvancesTime where
  trans h1 h2 := ⟨h2.1.trans h1.1, h1.2.trans h2.2⟩
  exec h := ⟨(exec_sameEnvironment h).config, (exec_sameEnvironment h).time.ge⟩
  same h := ⟨h.config, h.time_le⟩

/-- A step consumes no power cycle, or its answer is the power cycle's (rules R250, R251). -/
theorem step_powerCycle_or_not {s t : State} (h : step s = .next t) :
    (∀ i rest, s.inbox = i :: rest → isPowerCycle i = false) ∨
      ∃ time msecOrigin rest, s.inbox = .powerCycle time msecOrigin :: rest ∧
        t = powerCycle time msecOrigin { s with inbox := rest } := by
  by_cases hp : ∃ time msecOrigin rest, s.inbox = .powerCycle time msecOrigin :: rest
  · obtain ⟨time, msecOrigin, rest, hin⟩ := hp
    rw [step_powerCycle hin] at h
    cases h
    exact .inr ⟨time, msecOrigin, rest, hin, rfl⟩
  · refine .inl fun i rest hin => ?_
    cases i with
    | powerCycle time msecOrigin => exact absurd ⟨time, msecOrigin, rest, hin⟩ hp
    | _ => rfl

/-- Settles O49: an input other than a power cycle composes operations and changes outside the block, and a power cycle
hands the parameters on. -/
theorem parametersStayAndTimeGoesOn : Obligations.ParametersStayAndTimeGoesOn := by
  intro s t h
  rcases step_powerCycle_or_not h with hin | ⟨time, msecOrigin, rest, hin, rfl⟩
  · obtain ⟨hconfig, htime⟩ := keepsConfigAdvancesTime_closed.step hin h
    exact ⟨hconfig, fun _ => htime⟩
  · exact ⟨rfl, fun hno => absurd (hno _ _ hin) (by simp [isPowerCycle])⟩

end Sys2Proof.Machine
end

section
/-! PROOFS. The nearest NUM word of a NUM value is the word itself, so every NUM value is representable (rules R9, R88,
R98); where the exact result is one, every evaluation is the exact one. -/

namespace Sys2Proof.Machine

/-! The fields of a word as arithmetic on its number. -/

theorem numExponent_eq (w : Word) : numExponent w = w.toNat / 2 ^ 23 % 2 ^ 8 := by
  simp [numExponent, BitVec.extractLsb'_toNat, Nat.shiftRight_eq_div_pow]

theorem numFraction_eq (w : Word) : numFraction w = w.toNat % 2 ^ 23 := by
  simp [numFraction, BitVec.extractLsb'_toNat]

theorem numSign_eq (w : Word) : numSign w = decide (2 ^ 31 ≤ w.toNat) := by
  rw [numSign, ← BitVec.msb_eq_getLsbD_last (w := 32), BitVec.msb_eq_decide]

/-- A word is its three fields (rule R88). -/
theorem toNat_eq_fields (w : Word) :
    w.toNat = numExponent w * 2 ^ 23 + numFraction w + (if numSign w then 2 ^ 31 else 0) := by
  have := w.isLt
  simp only [numExponent_eq, numFraction_eq, numSign_eq, decide_eq_true_eq]
  split <;> omega

/-- The exponent field with the zero of the subnormal words read as 1 (rule R88). -/
def effectiveExponent (w : Word) : Nat := max (numExponent w) 1

theorem numExponent_lt_of_finite {w : Word} (h : numFinite w = true) : numExponent w < 255 := by
  have : numExponent w < 2 ^ 8 := (w.extractLsb' 23 8).isLt
  have : numExponent w ≠ 255 := by simpa [numFinite] using h
  omega

theorem numFraction_lt (w : Word) : numFraction w < 2 ^ 23 := (w.extractLsb' 0 23).isLt

/-- The two readings of rule R88: `e = 0`, read as 1, with the fraction alone, and any other `e` with the leading bit. -/
theorem subnormal_or_normal (w : Word) :
    (numExponent w = 0 ∧ effectiveExponent w = 1 ∧ numMantissa w = numFraction w) ∨
    (1 ≤ numExponent w ∧ effectiveExponent w = numExponent w ∧ numMantissa w = 2 ^ 23 + numFraction w) := by
  unfold effectiveExponent numMantissa
  split <;> omega

theorem numMagnitude_eq (w : Word) :
    numMagnitude w = (numMantissa w : ℚ) * 2 ^ ((effectiveExponent w : ℤ) - 150) := by
  simp only [numMagnitude, show max (numExponent w) 1 = effectiveExponent w from rfl]
  split
  case isTrue h =>
    obtain ⟨k, hk⟩ := Nat.exists_eq_add_of_le h
    simp [hk, Rat.mkRat_eq_div]
  case isFalse h =>
    obtain ⟨k, hk⟩ := Nat.exists_eq_add_of_le (not_le.mp h).le
    rw [show (effectiveExponent w : ℤ) - 150 = -(k : ℤ) by omega, show 150 - effectiveExponent w = k by omega, zpow_neg]
    simp [Rat.mkRat_eq_div, div_eq_mul_inv]

theorem numMagnitude_nonneg (w : Word) : 0 ≤ numMagnitude w := by
  rw [numMagnitude_eq]; positivity

theorem abs_numVal (w : Word) : |numVal w| = numMagnitude w := by
  unfold numVal
  split <;> simp [abs_of_nonneg (numMagnitude_nonneg w)]

theorem numVal_neg_iff {w : Word} (h : numVal w ≠ 0) : numVal w < 0 ↔ numSign w = true := by
  have hmag := numMagnitude_nonneg w
  unfold numVal at h ⊢
  cases hs : numSign w with
  | false => simpa using hmag
  | true =>
    have hne : numMagnitude w ≠ 0 := by simpa [hs] using h
    simpa using lt_of_le_of_ne hmag hne.symm

/-! The nearest word of a quotient that needs no rounding. -/

theorem two_zpow_mul_pow (k : ℤ) : (2 : ℚ) ^ k * 2 ^ (-k).toNat = 2 ^ k.toNat := by
  rw [← zpow_natCast, ← zpow_natCast, ← zpow_add₀ two_ne_zero]
  congr 1
  omega

theorem powerBelow_iff {n d : Nat} (hd : 0 < d) (k : ℤ) : powerBelow n d k = true ↔ (2 : ℚ) ^ k ≤ (n : ℚ) / d := by
  have hd' : (0 : ℚ) < d := by exact_mod_cast hd
  have hpow : (0 : ℚ) < 2 ^ (-k).toNat := by positivity
  rw [powerBelow, decide_eq_true_iff, le_div_iff₀ hd', ← mul_le_mul_iff_left₀ hpow, mul_right_comm, two_zpow_mul_pow,
    mul_comm _ (d : ℚ)]
  exact_mod_cast Iff.rfl

/-- `floorLog2` is the exponent of the greatest power of two that is at most the quotient. -/
theorem floorLog2_spec {n d : Nat} (hn : 0 < n) (hd : 0 < d) :
    (2 : ℚ) ^ floorLog2 n d ≤ (n : ℚ) / d ∧ (n : ℚ) / d < 2 ^ (floorLog2 n d + 1) := by
  have hd' : (0 : ℚ) < d := by exact_mod_cast hd
  have hn1 : (2 : ℚ) ^ (Nat.log2 n : ℤ) ≤ n := by exact_mod_cast Nat.log2_self_le hn.ne'
  have hn2 : (n : ℚ) < 2 ^ ((Nat.log2 n : ℤ) + 1) := by exact_mod_cast Nat.lt_log2_self
  have hd1 : (2 : ℚ) ^ (Nat.log2 d : ℤ) ≤ d := by exact_mod_cast Nat.log2_self_le hd.ne'
  have hd2 : (d : ℚ) < 2 ^ ((Nat.log2 d : ℤ) + 1) := by exact_mod_cast Nat.lt_log2_self
  have lower : (2 : ℚ) ^ ((Nat.log2 n : ℤ) - Nat.log2 d - 1) ≤ (n : ℚ) / d := by
    rw [sub_sub, zpow_sub₀ two_ne_zero]
    gcongr
  have upper : (n : ℚ) / d < 2 ^ ((Nat.log2 n : ℤ) - Nat.log2 d + 1) := by
    rw [sub_add_eq_add_sub, zpow_sub₀ two_ne_zero]
    gcongr
  simp only [floorLog2]
  split
  case isTrue h => exact ⟨(powerBelow_iff hd _).mp h, upper⟩
  case isFalse h =>
    rw [powerBelow_iff hd, not_le] at h
    exact ⟨lower, by simpa using h⟩

/-- A whole number of units is not rounded. -/
theorem roundHalfEven_mul (m : Nat) {d : Nat} (hd : 0 < d) : roundHalfEven (m * d) d = m := by
  simp [roundHalfEven, Nat.mul_div_cancel _ hd, hd.ne']

/-- The exponent `nearestMagnitude` takes for `m * 2^(e - 150)`, with `m` in the normal range or `e` the least. -/
theorem max_floorLog2 {n d m e : Nat} (hn : 0 < n) (hd : 0 < d)
    (hq : (n : ℚ) / d = m * 2 ^ ((e : ℤ) - 150)) (hm : m < 2 ^ 24) (he : 1 ≤ e) (hnormal : 2 ^ 23 ≤ m ∨ e = 1) :
    max (floorLog2 n d) (-126) = (e : ℤ) - 127 := by
  obtain ⟨lower, upper⟩ := floorLog2_spec hn hd
  rw [hq] at lower upper
  have below : floorLog2 n d < (e : ℤ) - 126 := by
    refine (zpow_lt_zpow_iff_right₀ (one_lt_two (α := ℚ))).mp (lower.trans_lt ?_)
    calc (m : ℚ) * 2 ^ ((e : ℤ) - 150) < 2 ^ 24 * 2 ^ ((e : ℤ) - 150) := by gcongr; exact_mod_cast hm
      _ = 2 ^ ((e : ℤ) - 126) := by rw [← zpow_natCast, ← zpow_add₀ two_ne_zero]; congr 1; push_cast; ring
  rcases hnormal with h | rfl
  · have above : (e : ℤ) - 127 < floorLog2 n d + 1 := by
      refine (zpow_lt_zpow_iff_right₀ (one_lt_two (α := ℚ))).mp (lt_of_le_of_lt ?_ upper)
      calc (2 : ℚ) ^ ((e : ℤ) - 127) = 2 ^ 23 * 2 ^ ((e : ℤ) - 150) := by
            rw [← zpow_natCast, ← zpow_add₀ two_ne_zero]; congr 1; push_cast; ring
        _ ≤ m * 2 ^ ((e : ℤ) - 150) := by gcongr; exact_mod_cast h
    omega
  · omega

/-- The bits of the word nearest to `m * 2^(e - 150)`, where that is a NUM value: no rounding happens. -/
theorem nearestMagnitude_eq {n d m e : Nat} (hn : 0 < n) (hd : 0 < d)
    (hq : (n : ℚ) / d = m * 2 ^ ((e : ℤ) - 150)) (hm : m < 2 ^ 24) (he : 1 ≤ e) (hnormal : 2 ^ 23 ≤ m ∨ e = 1) :
    nearestMagnitude n d = min ((e - 1) * 2 ^ 23 + m) 0x7F800000 := by
  have hunit : ((e : ℤ) - 127) - 23 = e - 150 := by ring
  have hscaled : n * 2 ^ (-((e : ℤ) - 150)).toNat = m * (d * 2 ^ ((e : ℤ) - 150).toNat) := by
    have hd' : (d : ℚ) ≠ 0 := by exact_mod_cast hd.ne'
    rw [div_eq_iff hd'] at hq
    have : (n : ℚ) * 2 ^ (-((e : ℤ) - 150)).toNat = m * (d * 2 ^ ((e : ℤ) - 150).toNat) := by
      linear_combination 2 ^ (-((e : ℤ) - 150)).toNat * hq + m * d * two_zpow_mul_pow ((e : ℤ) - 150)
    exact_mod_cast this
  simp only [nearestMagnitude, if_neg hn.ne', max_floorLog2 hn hd hq hm he hnormal, hunit, hscaled]
  rw [roundHalfEven_mul m (by positivity), show ((e : ℤ) - 127 + 126).toNat = e - 1 by omega]

/-- The word nearest to the value of a finite word other than the zeros is that word (rules R88, R98). -/
theorem nearestNum_numVal {w : Word} (hw : numFinite w = true) (h : numVal w ≠ 0) : nearestNum (numVal w) = w := by
  have hquot : ((numVal w).num.natAbs : ℚ) / (numVal w).den =
      (numMantissa w : ℚ) * 2 ^ ((effectiveExponent w : ℤ) - 150) := by
    rw [← numMagnitude_eq, ← abs_numVal, Rat.abs_def, Rat.divInt_eq_div]
    simp
  have hmag : nearestMagnitude (numVal w).num.natAbs (numVal w).den = numExponent w * 2 ^ 23 + numFraction w := by
    have hexp := numExponent_lt_of_finite hw
    have hfrac := numFraction_lt w
    have hfields := subnormal_or_normal w
    rw [nearestMagnitude_eq (by simpa [Nat.pos_iff_ne_zero] using h) (numVal w).den_pos hquot] <;> omega
  refine BitVec.eq_of_toNat_eq ?_
  rw [nearestNum, hmag, BitVec.toNat_ofNat]
  simp only [Rat.num_neg, numVal_neg_iff h, ← toNat_eq_fields]
  exact Nat.mod_eq_of_lt w.isLt

/-- Every NUM value passes the model's test of one (rule R9). -/
theorem representable_of_isNum {q : ℚ} (h : IsNum q) : representable q = true := by
  obtain ⟨w, hw, rfl⟩ := h
  by_cases h0 : numVal w = 0
  · rw [h0]; decide
  · simp [representable, nearestNum_numVal hw h0, hw]

/-- The test is passed by NUM values alone, so that it is exactly "representable in `NUM`" (rule R9). -/
theorem representable_iff (q : ℚ) : representable q = true ↔ IsNum q := by
  refine ⟨fun h => ?_, representable_of_isNum⟩
  simp only [representable, Bool.and_eq_true, decide_eq_true_eq] at h
  exact ⟨_, h⟩

/-! The three functions where the exact result is a NUM value. -/

/-- The product the target's test looks at is the product of rule R114. -/
theorem productRepresentable_iff (mpr : Nat) (r : Word) :
    productRepresentable mpr r = true ↔ IsNum (numVal r * (mpr : ℚ)) := by
  have : mkRat ((numVal r).num * (mpr : ℤ)) (numVal r).den = numVal r * (mpr : ℚ) := by
    rw [Rat.mkRat_eq_div]
    push_cast
    rw [mul_div_right_comm, Rat.num_div_den]
  rw [productRepresentable, this, representable_iff]

theorem targetOf_eq_exact {c : Config} {a : Axis} {r : Word} (h : IsNum (numVal r * (c.mpr a : ℚ))) :
    targetOf c a r = targetOf { c with targetEval := .exact } a r := by
  have hmpr : ({ c with targetEval := .exact } : Config).mpr a = c.mpr a := by cases a <;> rfl
  have hrep := (productRepresentable_iff (c.mpr a) r).mpr h
  unfold targetOf
  cases c.targetEval <;> simp [hmpr, hrep]

theorem smooth_eq_exactSmooth {c : Config} {raw : Nat} {prev : ℚ} (h : IsNum (exactSmooth c.alpha raw prev)) :
    smooth c raw prev = exactSmooth c.alpha raw prev := by
  unfold smooth
  cases c.smoothEval <;> simp [representable_of_isNum h]

/-- The quotient the half-period's test looks at is, for a positive speed, the quotient of rule R118. -/
theorem quotientRepresentable_iff (mpr : Nat) {speed : Word} (hs : 0 < numVal speed) :
    quotientRepresentable mpr speed = true ↔ IsNum (30000000 / (numVal speed * (mpr : ℚ))) := by
  have hnum : ((numVal speed).num.toNat : ℚ) = (numVal speed).num := by
    exact_mod_cast Int.toNat_of_nonneg (Rat.num_pos.mpr hs).le
  have : mkRat (30000000 * (numVal speed).den : ℕ) ((numVal speed).num.toNat * mpr) =
      30000000 / (numVal speed * (mpr : ℚ)) := by
    rw [Rat.mkRat_eq_div]
    push_cast
    rw [hnum]
    conv_rhs => rw [← Rat.num_div_den (numVal speed), div_mul_eq_mul_div, div_div_eq_mul_div]
  rw [quotientRepresentable, this, representable_iff]

theorem halfPeriodOf_eq_exact {c : Config} {a : Axis} {speed : Word} (hs : 0 < numVal speed)
    (h : IsNum (30000000 / (numVal speed * (c.mpr a : ℚ)))) (heval : c.halfPeriodEval a ≠ .linear) :
    halfPeriodOf c a speed = halfPeriodOf { c with halfPeriodEvalY := .exact, halfPeriodEvalZ := .exact } a speed := by
  have hexact : positiveHalfPeriod c a speed = exactHalfPeriod (c.mpr a) speed := by
    have hrep := (quotientRepresentable_iff (c.mpr a) hs).mpr h
    unfold positiveHalfPeriod
    cases he : c.halfPeriodEval a with
    | exact => rfl
    | platform => simp [hrep]
    | linear => exact absurd he heval
  rw [halfPeriodOf, hexact]
  cases a <;> rfl

/-- Settles O18: the model's test of a representable number is exact, and where it is passed each evaluation is the
exact one. -/
theorem evaluationsAgreeOnNumValues : Obligations.EvaluationsAgreeOnNumValues :=
  ⟨fun _ _ _ w _ hw hv => targetOf_eq_exact ⟨w, hw, hv⟩,
    fun _ _ _ w hw hv => smooth_eq_exactSmooth ⟨w, hw, hv⟩,
    fun _ _ _ w _ hs hw hv heval => halfPeriodOf_eq_exact hs ⟨w, hw, hv⟩ heval⟩

end Sys2Proof.Machine
end

section
/-! PROOFS. The register records (spec/10_state.md): which axis an operation writes and reads, which registers SETUP
alone writes, and the output lines an operation can touch. -/

namespace Sys2Proof.Machine

/-! ### Updates of the two records, and of a record and the rest, commute (rule R20). -/

theorem setAxis_comm (s : State) (m m' : MotorAxis) {a b : Axis} (h : b ≠ a) :
    (s.setAxis a m).setAxis b m' = (s.setAxis b m').setAxis a m := by
  obtain rfl : b = a.other := (eq_or_eq_other a b).resolve_left h
  cases a <;> rfl

theorem writeLine_setAxis (p : Pin) (level : Level) (time : Option Nat) (s : State) (a : Axis) (m : MotorAxis) :
    writeLine p level time (s.setAxis a m) = (writeLine p level time s).setAxis a m := by cases a <;> rfl

theorem drawResult_setAxis (s : State) (a : Axis) (m : MotorAxis) :
    drawResult (s.setAxis a m) = (drawResult s).setAxis a m := by cases a <;> rfl

theorem readUsec_setAxis (s : State) (a : Axis) (m : MotorAxis) : readUsec (s.setAxis a m) = readUsec s := by
  simp [readUsec]

theorem timeTest_setAxis_ne (s : State) (m : MotorAxis) (now : Nat) {a b : Axis} (h : b ≠ a) :
    timeTest (s.setAxis a m) b now = timeTest s b now := by
  simp [timeTest, axis_setAxis_ne s m h]

theorem nextFiltered_setAxis (s : State) (a : Axis) (m : MotorAxis) (raw : Nat) :
    nextFiltered (s.setAxis a m) raw = nextFiltered s raw := by simp [nextFiltered]

theorem calibrate_setAxis (s : State) (a : Axis) (m : MotorAxis) :
    calibrate (s.setAxis a m) = (calibrate s).setAxis a m := by
  unfold calibrate
  rw [filtered_setAxis, config_setAxis, drawResult_setAxis, apply_ite (State.setAxis · a m)]
  cases a <;> rfl

/-! ### An operation leaves the records it does not address alone. -/

theorem axis_advanceAxis_ne (r : Word) (now : Nat) (s : State) {a b : Axis} (h : b ≠ a) :
    (advanceAxis a r now s).axis b = s.axis b := by
  rcases advanceAxis_cases a r now s with
    ⟨-, -, e⟩ | ⟨-, -, e⟩ | ⟨-, -, e⟩ | ⟨-, -, e⟩ | ⟨-, -, e⟩ | ⟨-, e⟩ <;>
    simp [e, acceptCommand, axis_setAxis_ne _ _ h]

theorem axis_freerunAxis_ne (now : Nat) (s : State) {a b : Axis} (h : b ≠ a) :
    (freerunAxis a now s).axis b = s.axis b := by
  rcases freerunAxis_cases a now s with ⟨-, e⟩ | ⟨-, -, e⟩ | ⟨-, -, e⟩ <;>
    simp [e, toggleStepLine, axis_setAxis_ne _ _ h]

@[simp] theorem axis_calibrate (s : State) (b : Axis) : (calibrate s).axis b = s.axis b := by
  rcases calibrate_cases s with ⟨-, e⟩ | ⟨-, e⟩ <;> rw [e] <;> cases b <;> rfl

theorem exec_axis_of_not_addressed {i : Instr} {b : Axis} {s t : State} (hb : axisOf i ≠ some b)
    (h : exec i s = .next t) : t.axis b = s.axis b := by
  have ne {a : Axis} (ha : axisOf i = some a) : b ≠ a := fun e => hb (e ▸ ha)
  cases i with
  | setup a sp dp rsv speed =>
    obtain ⟨-, -, -, hp, -, rfl⟩ := execSetup_eq_next.mp h
    simp [axis_setAxis_ne _ _ (ne rfl)]
  | advance a r =>
    obtain ⟨-, -, -, rfl⟩ := execAdvance_eq_next.mp h
    simp [axis_advanceAxis_ne _ _ _ (ne rfl)]
  | rearm a =>
    obtain ⟨-, rfl⟩ := execRearm_eq_next.mp h
    simp [axis_setAxis_ne _ _ (ne rfl)]
  | dir a level rsv =>
    obtain ⟨-, -, rfl⟩ := execDir_eq_next.mp h
    simp
  | freerun a =>
    obtain ⟨-, -, rfl⟩ := execFreerun_eq_next.mp h
    simp [axis_freerunAxis_ne _ _ (ne rfl)]
  | sample operand =>
    obtain ⟨-, -, rfl⟩ := execSample_eq_next.mp h
    rw [axis_calibrate]
    cases b <;> rfl
  | reserved x a => exact absurd h (raise_ne_next _ _ _)
  | sampleAxisBit => exact absurd h (raise_ne_next _ _ _)

/-! ### An operation does not read the records it does not address. -/

theorem advanceAxis_setAxis_ne (r : Word) (now : Nat) (s : State) (m : MotorAxis) {a b : Axis} (h : a ≠ b) :
    advanceAxis a r now (s.setAxis b m) = (advanceAxis a r now s).setAxis b m := by
  unfold advanceAxis highEdgeIfDue lowEdgeIfDue acceptCommand
  rw [axis_setAxis_ne s m h, config_setAxis, timeTest_setAxis_ne s m now h]
  cases (s.axis a).sub with
  | idle => cases isCommand s.config a r <;> simp [setAxis_comm _ _ _ h]
  | pulseHigh => cases timeTest s a now <;> simp [writeLine_setAxis, setAxis_comm _ _ _ h]
  | pulseLow => cases timeTest s a now <;> simp [writeLine_setAxis, setAxis_comm _ _ _ h]
  | done => exact setAxis_comm _ _ _ h

theorem freerunAxis_setAxis_ne (now : Nat) (s : State) (m : MotorAxis) {a b : Axis} (h : a ≠ b) :
    freerunAxis a now (s.setAxis b m) = (freerunAxis a now s).setAxis b m := by
  unfold freerunAxis toggleStepLine
  rw [axis_setAxis_ne s m h, timeTest_setAxis_ne s m now h, line_setAxis, writeLine_setAxis]
  cases (s.axis a).timeHeld <;> cases timeTest s a now <;> simp [setAxis_comm _ _ _ h]

theorem exec_setAxis_of_not_addressed {i : Instr} {b : Axis} {s t : State} (m : MotorAxis)
    (hb : axisOf i ≠ some b) (hi : isSetup i = false) (h : exec i s = .next t) :
    exec i (s.setAxis b m) = .next (t.setAxis b m) := by
  have ne {a : Axis} (ha : axisOf i = some a) : a ≠ b := fun e => hb (e ▸ ha)
  cases i with
  | setup => simp [isSetup] at hi
  | advance a r =>
    obtain ⟨hr, hfits, hconf, rfl⟩ := execAdvance_eq_next.mp h
    refine execAdvance_eq_next.mpr ⟨hr, by simpa, by rwa [axis_setAxis_ne _ _ (ne rfl)], ?_⟩
    rw [readUsec_setAxis, advanceAxis_setAxis_ne _ _ _ _ (ne rfl), drawResult_setAxis]
  | rearm a =>
    obtain ⟨hconf, rfl⟩ := execRearm_eq_next.mp h
    refine execRearm_eq_next.mpr ⟨by rwa [axis_setAxis_ne _ _ (ne rfl)], ?_⟩
    rw [axis_setAxis_ne _ _ (ne rfl), setAxis_comm _ _ _ (ne rfl), ← drawResult_setAxis]
  | dir a level rsv =>
    obtain ⟨hrsv, hconf, rfl⟩ := execDir_eq_next.mp h
    refine execDir_eq_next.mpr ⟨hrsv, by rwa [axis_setAxis_ne _ _ (ne rfl)], ?_⟩
    rw [axis_setAxis_ne _ _ (ne rfl), writeLine_setAxis, drawResult_setAxis]
  | freerun a =>
    obtain ⟨hconf, hsub, rfl⟩ := execFreerun_eq_next.mp h
    refine execFreerun_eq_next.mpr
      ⟨by rwa [axis_setAxis_ne _ _ (ne rfl)], by rwa [axis_setAxis_ne _ _ (ne rfl)], ?_⟩
    rw [readUsec_setAxis, freerunAxis_setAxis_ne _ _ _ (ne rfl), drawResult_setAxis]
  | sample operand =>
    obtain ⟨hraw, hvariant, rfl⟩ := execSample_eq_next.mp h
    refine execSample_eq_next.mpr ⟨by simpa, by simpa, ?_⟩
    rw [nextFiltered_setAxis, ← calibrate_setAxis]
    cases b <;> rfl
  | reserved x a => exact absurd h (raise_ne_next _ _ _)
  | sampleAxisBit => exact absurd h (raise_ne_next _ _ _)

/-- Settles O45: each operation's one update of a record is of the axis it addresses, and that update and every test
before it look at that axis alone. -/
theorem axesAreIndependent : Obligations.AxesAreIndependent :=
  ⟨fun _ _ _ _ => exec_axis_of_not_addressed, fun _ _ m _ _ => exec_setAxis_of_not_addressed m⟩

/-! ### The configuration of an axis. -/

/-- The registers that SETUP configures hold the same values (rules R21 to R23, R28). -/
def SameConfiguration (m m' : MotorAxis) : Prop :=
  m'.stepPin = m.stepPin ∧ m'.dirPin = m.dirPin ∧ m'.halfPeriod = m.halfPeriod ∧ m'.configured = m.configured

theorem SameConfiguration.of_eq {m m' : MotorAxis} (h : m' = m) : SameConfiguration m m' := by
  subst h
  exact ⟨rfl, rfl, rfl, rfl⟩

theorem sameConfiguration_advanceAxis (a : Axis) (r : Word) (now : Nat) (s : State) :
    SameConfiguration (s.axis a) ((advanceAxis a r now s).axis a) := by
  rcases advanceAxis_cases a r now s with
    ⟨-, -, e⟩ | ⟨-, -, e⟩ | ⟨-, -, e⟩ | ⟨-, -, e⟩ | ⟨-, -, e⟩ | ⟨-, e⟩ <;>
    simp [e, acceptCommand, SameConfiguration]

theorem sameConfiguration_freerunAxis (a : Axis) (now : Nat) (s : State) :
    SameConfiguration (s.axis a) ((freerunAxis a now s).axis a) := by
  rcases freerunAxis_cases a now s with ⟨-, e⟩ | ⟨-, -, e⟩ | ⟨-, -, e⟩ <;>
    simp [e, toggleStepLine, SameConfiguration]

theorem exec_sameConfiguration {i : Instr} {a : Axis} {s t : State} (h : exec i s = .next t)
    (hi : ∀ sp dp rsv speed, i ≠ .setup a sp dp rsv speed) : SameConfiguration (s.axis a) (t.axis a) := by
  by_cases ha : axisOf i = some a
  · cases i with
    | setup b sp dp rsv speed =>
      cases ha
      exact absurd rfl (hi sp dp rsv speed)
    | advance b r =>
      cases ha
      obtain ⟨-, -, -, rfl⟩ := execAdvance_eq_next.mp h
      rw [axis_drawResult]
      exact sameConfiguration_advanceAxis a r (readUsec s) s
    | rearm b =>
      cases ha
      obtain ⟨-, rfl⟩ := execRearm_eq_next.mp h
      simp [SameConfiguration]
    | dir b level rsv =>
      obtain ⟨-, -, rfl⟩ := execDir_eq_next.mp h
      exact .of_eq (by simp)
    | freerun b =>
      cases ha
      obtain ⟨-, -, rfl⟩ := execFreerun_eq_next.mp h
      rw [axis_drawResult]
      exact sameConfiguration_freerunAxis a (readUsec s) s
    | sample operand => cases ha
    | reserved x b => exact absurd h (raise_ne_next _ _ _)
    | sampleAxisBit => cases ha
  · exact .of_eq (exec_axis_of_not_addressed ha h)

/-- Settles O47: an operation on another axis writes no register of this one, and of those on this axis only SETUP
writes a pin, the half-period or `configured`. -/
theorem onlySetupConfigures : Obligations.OnlySetupConfigures :=
  fun _ _ _ _ => exec_sameConfiguration

/-! ### The lines an operation can touch. -/

/-- No line is written, or one pin of axis `a` is (rules R41, R46). -/
def OwnLineWritten (a : Axis) (s t : State) : Prop :=
  t.out = s.out ∨
    ∃ p level, (p = (s.axis a).stepPin ∨ p = (s.axis a).dirPin) ∧ t.out = setLine p level s.out

theorem ownLineWritten_advanceAxis (a : Axis) (r : Word) (now : Nat) (s : State) :
    OwnLineWritten a s (advanceAxis a r now s) := by
  rcases advanceAxis_cases a r now s with
    ⟨-, -, e⟩ | ⟨-, -, e⟩ | ⟨-, -, e⟩ | ⟨-, -, e⟩ | ⟨-, -, e⟩ | ⟨-, e⟩ <;> rw [e]
  · exact .inl (out_setAxis _ _ _)
  · exact .inl rfl
  · exact .inl rfl
  · exact .inr ⟨_, _, .inl rfl, (out_setAxis _ _ _).trans (out_writeLine _ _ _ _)⟩
  · exact .inr ⟨_, _, .inl rfl, (out_setAxis _ _ _).trans (out_writeLine _ _ _ _)⟩
  · exact .inl (out_setAxis _ _ _)

theorem ownLineWritten_freerunAxis (a : Axis) (now : Nat) (s : State) :
    OwnLineWritten a s (freerunAxis a now s) := by
  rcases freerunAxis_cases a now s with ⟨-, e⟩ | ⟨-, -, e⟩ | ⟨-, -, e⟩ <;> rw [e]
  · exact .inl (out_setAxis _ _ _)
  · exact .inr ⟨_, _, .inl rfl, out_setAxis _ _ _⟩
  · exact .inl rfl

@[simp] theorem out_calibrate (s : State) : (calibrate s).out = s.out := by
  rcases calibrate_cases s with ⟨-, e⟩ | ⟨-, e⟩ <;> simp [e]

/-- An operation writes no line, or one pin of the configured axis it addresses. -/
theorem exec_out {i : Instr} {s t : State} (h : exec i s = .next t) :
    t.out = s.out ∨ ∃ a, axisOf i = some a ∧ (s.axis a).configured = true ∧ OwnLineWritten a s t := by
  cases i with
  | setup a sp dp rsv speed =>
    obtain ⟨-, -, -, hp, -, rfl⟩ := execSetup_eq_next.mp h
    exact .inl (by simp)
  | advance a r =>
    obtain ⟨-, -, hconf, rfl⟩ := execAdvance_eq_next.mp h
    exact .inr ⟨a, rfl, hconf, ownLineWritten_advanceAxis a r (readUsec s) s⟩
  | rearm a =>
    obtain ⟨-, rfl⟩ := execRearm_eq_next.mp h
    exact .inl (by simp)
  | dir a level rsv =>
    obtain ⟨-, hconf, rfl⟩ := execDir_eq_next.mp h
    exact .inr ⟨a, rfl, hconf, .inr ⟨_, _, .inr rfl, rfl⟩⟩
  | freerun a =>
    obtain ⟨hconf, -, rfl⟩ := execFreerun_eq_next.mp h
    exact .inr ⟨a, rfl, hconf, ownLineWritten_freerunAxis a (readUsec s) s⟩
  | sample operand =>
    obtain ⟨-, -, rfl⟩ := execSample_eq_next.mp h
    exact .inl (by simp)
  | reserved x a => exact absurd h (raise_ne_next _ _ _)
  | sampleAxisBit => exact absurd h (raise_ne_next _ _ _)

end Sys2Proof.Machine
end

section
/-! PROOFS. The axis and line invariant (rule R29 of spec/10_state.md): what it says of one record, why each operation
keeps it on the axis it addresses, on the other axis and between the two, and so every step. -/

namespace Sys2Proof.Machine

/-! ### One record and the level of its step line. -/

/-- What the invariant says of one register record `m`, whose step line is at `level`, under the parameters `c`. -/
structure RecordInv (c : Config) (m : MotorAxis) (level : Level) : Prop where
  target_fits : m.target.toNat ≤ 2 ^ 31 - 1
  time_fits : m.timeHeld = true → m.lastTime < 2 ^ c.tw
  pins_apart : m.configured = true → m.stepPin ≠ m.dirPin
  pins_exist : m.configured = true → pinExists c m.stepPin = true ∧ pinExists c m.dirPin = true
  halfPeriod_legal : m.configured = true → 1 ≤ m.halfPeriod ∧ m.halfPeriod < 2 ^ c.tw
  issued_le : m.configured = true → m.issued.toNat ≤ m.target.toNat
  done_all : m.configured = true → m.sub = .done → m.issued = m.target
  pulse_some : m.configured = true → m.sub = .pulseHigh ∨ m.sub = .pulseLow →
    m.issued.toNat < m.target.toNat ∧ m.timeHeld = true
  pulse_high : m.configured = true → m.sub = .pulseLow → level = .high

theorem axisInv_iff {s : State} {a : Axis} :
    AxisInv s a ↔ RecordInv s.config (s.axis a) (s.line (s.axis a).stepPin) :=
  ⟨fun h => { h with }, fun h => { h with }⟩

theorem readUsec_lt (s : State) : readUsec s < 2 ^ s.config.tw := Nat.mod_lt _ (Nat.two_pow_pos _)

namespace RecordInv

variable {c : Config} {m : MotorAxis} {level : Level}

/-- An Idle record asks nothing of its line. -/
theorem any_level (h : RecordInv c m level) (hsub : m.sub = .idle) (level' : Level) : RecordInv c m level' :=
  { h with pulse_high := by simp [hsub] }

/-- Returning to Idle: REARM, and ADVANCE on a Done axis (rules R128, R139). -/
theorem toIdle (h : RecordInv c m level) : RecordInv c { m with sub := .idle } level :=
  { h with done_all := by simp, pulse_some := by simp, pulse_high := by simp }

/-- FREERUN records its time (rules R150, R151). -/
theorem timed (h : RecordInv c m level) {now : Nat} (hnow : now < 2 ^ c.tw) :
    RecordInv c { m with lastTime := now, timeHeld := true } level :=
  { h with
    time_fits := fun _ => hnow
    pulse_some := fun hconf hsub => ⟨(h.pulse_some hconf hsub).1, rfl⟩ }

/-- SETUP's record is Idle with legal pins and a legal half-period (rule R117). -/
theorem configured (h : RecordInv c m level) {sp dp : Pin} {hp : Nat} (hapart : sp ≠ dp)
    (hsp : pinExists c sp = true) (hdp : pinExists c dp = true) (hhp : 1 ≤ hp ∧ hp < 2 ^ c.tw) (level' : Level) :
    RecordInv c (configureAxis m sp dp hp) level' where
  target_fits := h.target_fits
  time_fits := h.time_fits
  pins_apart _ := hapart
  pins_exist _ := ⟨hsp, hdp⟩
  halfPeriod_legal _ := hhp
  issued_le _ := by simp [configureAxis]
  done_all := by simp [configureAxis]
  pulse_some := by simp [configureAxis]
  pulse_high := by simp [configureAxis]

/-- An accepted command has nothing issued of a target that is positive and fits (rules R115, R124). -/
theorem accepted (h : RecordInv c m level) {t : Int} {now : Nat} (hpos : 0 < t) (hfits : t ≤ 2 ^ 31 - 1)
    (hnow : now < 2 ^ c.tw) :
    RecordInv c
      { m with
        target := BitVec.ofNat 32 t.toNat, issued := 0#32, lastTime := now, timeHeld := true, sub := .pulseHigh }
      level := by
  have htarget : (BitVec.ofNat 32 t.toNat).toNat = t.toNat := by
    rw [BitVec.toNat_ofNat, Nat.mod_eq_of_lt (by omega)]
  exact { h with
    target_fits := by rw [htarget]; omega
    time_fits := fun _ => hnow
    issued_le := by simp
    done_all := by simp
    pulse_some := fun _ _ => ⟨by rw [htarget]; simpa using hpos, rfl⟩
    pulse_high := by simp }

/-- The edge to HIGH (rule R126). -/
theorem raised (h : RecordInv c m level) {now : Nat} (hsub : m.sub = .pulseHigh) (hnow : now < 2 ^ c.tw) :
    RecordInv c { m with lastTime := now, timeHeld := true, sub := .pulseLow } .high :=
  { h with
    time_fits := fun _ => hnow
    done_all := by simp
    pulse_some := fun hconf _ => ⟨(h.pulse_some hconf (.inl hsub)).1, rfl⟩
    pulse_high := by simp }

/-- The edge to LOW: the count rises by one without passing the target, and Done is reaching it (rules R116, R127). -/
theorem lowered (h : RecordInv c m level) {now : Nat} (hconf : m.configured = true) (hsub : m.sub = .pulseLow)
    (hnow : now < 2 ^ c.tw) (level' : Level) :
    RecordInv c
      { m with
        lastTime := now, timeHeld := true, issued := m.issued + 1#32,
        sub := if commandComplete (m.issued + 1#32) m.target then .done else .pulseHigh }
      level' := by
  have hlt : m.issued.toNat < m.target.toNat := (h.pulse_some hconf (.inr hsub)).1
  have hissued : (m.issued + 1#32).toNat = m.issued.toNat + 1 :=
    BitVec.toNat_add_of_lt (by simp; omega)
  have hle : (m.issued + 1#32).toNat ≤ m.target.toNat := by omega
  cases hfull : commandComplete (m.issued + 1#32) m.target with
  | true =>
    exact { h with
      time_fits := fun _ => hnow
      issued_le := fun _ => hle
      done_all := fun _ _ => BitVec.eq_of_toNat_eq (hle.antisymm (of_decide_eq_true hfull))
      pulse_some := by simp
      pulse_high := by simp }
  | false =>
    exact { h with
      time_fits := fun _ => hnow
      issued_le := fun _ => hle
      done_all := by simp
      pulse_some := fun _ _ => ⟨not_le.mp (of_decide_eq_false hfull), rfl⟩
      pulse_high := by simp }

end RecordInv

/-! ### The axis an operation addresses. -/

theorem axisInv_drawResult {s : State} {a : Axis} (h : AxisInv s a) : AxisInv (drawResult s) a :=
  axisInv_iff.mpr (by simpa using axisInv_iff.mp h)

/-- A record is written after the lines: what is to be shown is said of the new record and the new level. -/
theorem axisInv_setAxis {s : State} {a : Axis} {m : MotorAxis} (h : RecordInv s.config m (s.line m.stepPin)) :
    AxisInv (s.setAxis a m) a :=
  axisInv_iff.mpr (by simpa using h)

theorem axisInv_advanceAxis {a : Axis} {r : Word} {s : State} (h : AxisInv s a)
    (hfits : targetFits s.config a r = true) (hconf : (s.axis a).configured = true) :
    AxisInv (advanceAxis a r (readUsec s) s) a := by
  have hrec := axisInv_iff.mp h
  have hnow := readUsec_lt s
  rcases advanceAxis_cases a r (readUsec s) s with
    ⟨-, hcommand, e⟩ | ⟨-, -, e⟩ | ⟨-, -, e⟩ | ⟨hsub, -, e⟩ | ⟨hsub, -, e⟩ | ⟨-, e⟩ <;> rw [e]
  · simp only [isCommand, Bool.and_eq_true, decide_eq_true_eq] at hcommand
    exact axisInv_setAxis (hrec.accepted hcommand.2 (of_decide_eq_true hfits) hnow)
  · exact h
  · exact h
  · exact axisInv_setAxis (by simpa using hrec.raised hsub hnow)
  · exact axisInv_setAxis (hrec.lowered hconf hsub hnow _)
  · exact axisInv_setAxis hrec.toIdle

theorem axisInv_freerunAxis {a : Axis} {s : State} (h : AxisInv s a) (hsub : (s.axis a).sub = .idle) :
    AxisInv (freerunAxis a (readUsec s) s) a := by
  have htimed := (axisInv_iff.mp h).timed (readUsec_lt s)
  rcases freerunAxis_cases a (readUsec s) s with ⟨-, e⟩ | ⟨-, -, e⟩ | ⟨-, -, e⟩ <;> rw [e]
  · exact axisInv_setAxis htimed
  · exact axisInv_setAxis (htimed.any_level hsub _)
  · exact h

/-- DIR writes the direction line, which is not the step line (rules R119, R141). -/
theorem axisInv_writeDirection {a : Axis} {level : Level} {time : Option Nat} {s : State} (h : AxisInv s a)
    (hconf : (s.axis a).configured = true) : AxisInv (writeLine (s.axis a).dirPin level time s) a := by
  have hline := line_writeLine_ne level time s (h.pins_apart hconf)
  exact axisInv_iff.mpr (by simpa [hline] using axisInv_iff.mp h)

/-- What SETUP's check of the pins passed says (rule R119). -/
theorem pinsOk_iff {s : State} {a : Axis} {sp dp : Pin} :
    pinsOk s a sp dp = true ↔
      pinExists s.config sp = true ∧ pinExists s.config dp = true ∧ sp ≠ dp ∧
        ((s.axis a.other).configured = true →
          sp ≠ (s.axis a.other).stepPin ∧ sp ≠ (s.axis a.other).dirPin ∧
          dp ≠ (s.axis a.other).stepPin ∧ dp ≠ (s.axis a.other).dirPin) := by
  cases h : (s.axis a.other).configured <;> simp [pinsOk, pinsFreeOf, h, and_assoc]

/-- The half-period SETUP takes is in range (rule R117). -/
theorem legalHalfPeriod_range {c : Config} {a : Axis} {speed : Word} {hp : Nat}
    (h : legalHalfPeriod c a speed = some hp) : 1 ≤ hp ∧ hp < 2 ^ c.tw := by
  unfold legalHalfPeriod at h
  split at h
  · split at h
    · cases h
      assumption
    · cases h
  · cases h

theorem exec_axisInv_addressed {i : Instr} {a : Axis} {s t : State} (ha : axisOf i = some a) (hs : AxisInv s a)
    (h : exec i s = .next t) : AxisInv t a := by
  cases i with
  | setup b sp dp rsv speed =>
    cases ha
    obtain ⟨-, -, hpins, hp, hhp, rfl⟩ := execSetup_eq_next.mp h
    obtain ⟨hsp, hdp, hapart, -⟩ := pinsOk_iff.mp hpins
    exact axisInv_drawResult (axisInv_setAxis
      ((axisInv_iff.mp hs).configured hapart hsp hdp (legalHalfPeriod_range hhp) _))
  | advance b r =>
    cases ha
    obtain ⟨-, hfits, hconf, rfl⟩ := execAdvance_eq_next.mp h
    exact axisInv_drawResult (axisInv_advanceAxis hs hfits hconf)
  | rearm b =>
    cases ha
    obtain ⟨-, rfl⟩ := execRearm_eq_next.mp h
    exact axisInv_drawResult (axisInv_setAxis (axisInv_iff.mp hs).toIdle)
  | dir b level rsv =>
    cases ha
    obtain ⟨-, hconf, rfl⟩ := execDir_eq_next.mp h
    exact axisInv_drawResult (axisInv_writeDirection hs hconf)
  | freerun b =>
    cases ha
    obtain ⟨-, hsub, rfl⟩ := execFreerun_eq_next.mp h
    exact axisInv_drawResult (axisInv_freerunAxis hs hsub)
  | sample operand => cases ha
  | reserved x b => exact absurd h (raise_ne_next _ _ _)
  | sampleAxisBit => cases ha

/-! ### Between the axes. -/

/-- The two axes share no line, said from the side of either of them. -/
theorem axesApart_iff {s : State} (a : Axis) :
    AxesApart s ↔
      ((s.axis a).configured = true → (s.axis a.other).configured = true →
        (s.axis a).stepPin ≠ (s.axis a.other).stepPin ∧ (s.axis a).stepPin ≠ (s.axis a.other).dirPin ∧
        (s.axis a).dirPin ≠ (s.axis a.other).stepPin ∧ (s.axis a).dirPin ≠ (s.axis a.other).dirPin) := by
  cases a
  · rfl
  · constructor
    · intro h hz hy
      obtain ⟨hss, hsd, hds, hdd⟩ := h hy hz
      exact ⟨hss.symm, hds.symm, hsd.symm, hdd.symm⟩
    · intro h hy hz
      obtain ⟨hss, hsd, hds, hdd⟩ := h hz hy
      exact ⟨hss.symm, hds.symm, hsd.symm, hdd.symm⟩

theorem AxesApart.of_sameConfiguration {s t : State} (h : AxesApart s)
    (hsame : ∀ a, SameConfiguration (s.axis a) (t.axis a)) : AxesApart t := by
  obtain ⟨hsy, hdy, -, hcy⟩ := hsame .y
  obtain ⟨hsz, hdz, -, hcz⟩ := hsame .z
  simp only [axis_y, axis_z] at hsy hdy hcy hsz hdz hcz
  rw [AxesApart, hsy, hdy, hcy, hsz, hdz, hcz]
  exact h

/-- SETUP takes no pin of the other axis, and nothing else takes a pin (rules R34, R119). -/
theorem exec_axesApart {i : Instr} {s t : State} (hs : AxesApart s) (h : exec i s = .next t) : AxesApart t := by
  by_cases hi : ∃ a sp dp rsv speed, i = .setup a sp dp rsv speed
  · obtain ⟨a, sp, dp, rsv, speed, rfl⟩ := hi
    obtain ⟨-, -, hpins, hp, -, rfl⟩ := execSetup_eq_next.mp h
    obtain ⟨-, -, -, hfree⟩ := pinsOk_iff.mp hpins
    rw [axesApart_iff a]
    simpa [configureAxis] using hfree
  · refine hs.of_sameConfiguration fun a => exec_sameConfiguration h ?_
    exact fun sp dp rsv speed e => hi ⟨a, sp, dp, rsv, speed, e⟩

/-- The operation of one axis writes no step line of the other. -/
theorem exec_line_of_not_addressed {i : Instr} {b : Axis} {s t : State} (hs : AxesApart s)
    (hb : axisOf i ≠ some b) (hconf : (s.axis b).configured = true) (h : exec i s = .next t) :
    t.line (s.axis b).stepPin = s.line (s.axis b).stepPin := by
  rcases exec_out h with hout | ⟨a, ha, haconf, hout | ⟨p, level, hp, hout⟩⟩
  · simp [State.line, hout]
  · simp [State.line, hout]
  · have hother : b = a.other := (eq_or_eq_other a b).resolve_left fun e => hb (e ▸ ha)
    subst hother
    obtain ⟨hss, -, hds, -⟩ := (axesApart_iff a).mp hs haconf hconf
    have hne : (s.axis a.other).stepPin ≠ p := by
      rcases hp with rfl | rfl
      · exact hss.symm
      · exact hds.symm
    rw [State.line, hout]
    exact lineLevel_setLine_ne level s.out hne

theorem exec_axisInv_not_addressed {i : Instr} {b : Axis} {s t : State} (hb : axisOf i ≠ some b) (hs : AxisInv s b)
    (hapart : AxesApart s) (h : exec i s = .next t) : AxisInv t b := by
  have hrec := axisInv_iff.mp hs
  rw [axisInv_iff, exec_axis_of_not_addressed hb h, (exec_sameEnvironment h).config]
  exact { hrec with
    pulse_high := fun hconf hsub => by
      rw [exec_line_of_not_addressed hapart hb hconf h]
      exact hrec.pulse_high hconf hsub }

/-! ### Operations and steps. -/

theorem exec_linesWf {i : Instr} {s t : State} (hs : linesWf s.out = true) (h : exec i s = .next t) :
    linesWf t.out = true := by
  rcases exec_out h with hout | ⟨a, -, -, hout | ⟨p, level, -, hout⟩⟩ <;> rw [hout]
  · exact hs
  · exact hs
  · exact linesWf_setLine p level s.out hs

theorem exec_axisInv {i : Instr} {a : Axis} {s t : State} (hs : AxisInv s a) (hapart : AxesApart s)
    (h : exec i s = .next t) : AxisInv t a := by
  by_cases ha : axisOf i = some a
  · exact exec_axisInv_addressed ha hs h
  · exact exec_axisInv_not_addressed ha hs hapart h

theorem exec_inv {i : Instr} {s t : State} (hs : s.Inv) (h : exec i s = .next t) : t.Inv where
  lines := exec_linesWf hs.lines h
  axisY := exec_axisInv hs.axisY hs.apart h
  axisZ := exec_axisInv hs.axisZ hs.apart h
  apart := exec_axesApart hs.apart h

/-- The invariant speaks of the block and the parameters alone. -/
theorem SameBlock.inv {s t : State} (h : SameBlock s t) (hs : s.Inv) : t.Inv := by
  have haxis {a : Axis} (ha : AxisInv s a) : AxisInv t a := by
    rw [axisInv_iff, h.axis, h.config, h.line]
    exact axisInv_iff.mp ha
  exact ⟨h.out ▸ hs.lines, haxis hs.axisY, haxis hs.axisZ,
    hs.apart.of_sameConfiguration fun a => .of_eq (h.axis a)⟩

@[simp] theorem axis_resetWith (c : Config) (time msecOrigin : Nat) (a : Axis) :
    (State.resetWith c time msecOrigin).axis a = MotorAxis.reset := by cases a <;> rfl

@[simp] theorem axis_powerCycle (time msecOrigin : Nat) (s : State) (a : Axis) :
    (powerCycle time msecOrigin s).axis a = MotorAxis.reset := by cases a <;> rfl

/-- Unconfigured axes with nothing in their registers and no line at HIGH: the invariant holds whatever the
parameters and the rest of the state. -/
theorem inv_of_reset {s : State} (haxis : ∀ a, s.axis a = MotorAxis.reset) (hout : s.out = []) : s.Inv := by
  have hinv (a : Axis) : AxisInv s a := by
    rw [axisInv_iff, haxis]
    constructor <;> simp [MotorAxis.reset]
  have hy : s.axisY = MotorAxis.reset := haxis .y
  exact ⟨by rw [hout]; rfl, hinv .y, hinv .z, by simp [AxesApart, hy, MotorAxis.reset]⟩

theorem keepsInv_closed : Closed fun s t => s.Inv → t.Inv where
  trans h1 h2 := h2 ∘ h1
  exec h hs := exec_inv hs h
  same h := h.inv

/-- Settles O43: an input other than a power cycle composes operations, which keep the invariant one axis at a time,
and changes outside the block; a power cycle leaves the reset records and no line at HIGH. -/
theorem everyStepKeepsTheInvariant : Obligations.EveryStepKeepsTheInvariant := by
  intro s t hs h
  rcases step_powerCycle_or_not h with hin | ⟨time, msecOrigin, rest, -, rfl⟩
  · exact keepsInv_closed.step hin h hs
  · exact inv_of_reset (axis_powerCycle time msecOrigin _) rfl

end Sys2Proof.Machine
end

section
/-! PROOFS. Reset and the status ports (rules R32, R48, R250 of the spec). -/

namespace Sys2Proof.Machine

/-- With no line at HIGH, every line is LOW. -/
theorem line_of_out_nil {s : State} (h : s.out = []) (p : Pin) : s.line p = .low := by
  simp [State.line, lineLevel, h]

/-- The reset value of `R_CM` is 14.0 (rule R183). -/
theorem numVal_radius_reset : numVal ScanHost.reset.radius = 14 := by decide

/-- The reset value of `RPM_Z` is 10.0 (rule R183). -/
theorem numVal_rpmZ_reset : numVal ScanHost.reset.rpmZ = 10 := by decide

/-- Settles O7: the reset record and the reset host hold the stated values, and the lines at HIGH are none. -/
theorem resetLeavesTheStatedValues : Obligations.ResetLeavesTheStatedValues := by
  intro c time msecOrigin s
  have haxis (a : Axis) : s.axis a = MotorAxis.reset := axis_resetWith c time msecOrigin a
  exact ⟨fun a => by rw [haxis]; exact ⟨rfl, rfl⟩, rfl, line_of_out_nil rfl, rfl, rfl, rfl, rfl,
    numVal_radius_reset, numVal_rpmZ_reset, rfl⟩

/-- Settles O8: the axes are unconfigured with a zero target, the filter is not primed and the slice is 0. -/
theorem resetMeetsTheInvariants : Obligations.ResetMeetsTheInvariants := by
  intro c time msecOrigin
  have hprimed : ¬ (State.resetWith c time msecOrigin).primed = true := Bool.false_ne_true
  exact ⟨inv_of_reset (axis_resetWith c time msecOrigin) rfl, fun h => absurd h hprimed,
    fun h => absurd h hprimed, Nat.zero_le _⟩

/-- Settles O9: the step answers `powerCycle`, which is the reset state but for the parameters, the lines outside the
block and the inputs to come. -/
theorem powerCycleIsReset : Obligations.PowerCycleIsReset := by
  intro s time msecOrigin rest hin
  exact ⟨_, step_powerCycle hin, rfl, rfl, rfl, axis_powerCycle time msecOrigin _, rfl, line_of_out_nil rfl, rfl, rfl⟩

theorem readStatus_of_configured {a : Axis} {s : State} (h : (s.axis a).configured = true) :
    readStatus a s = .ok (s.axis a).sub := by simp [readStatus, h]

theorem readStatus_of_unconfigured {a : Axis} {s : State} (h : (s.axis a).configured = false) :
    readStatus a s = .error (.statusRead a) := by simp [readStatus, h]

/-- Done is the one sub-state with the code 11 (rules R27, R32). -/
theorem subStateCode_eq_done_iff (sub : SubState) : subStateCode sub = 0b11#2 ↔ sub = .done := by
  cases sub <;> decide

/-- Settles O42: both ports read the status, which is the sub-state or the fault, and Done alone has the code 11. -/
theorem statusPortsShowTheSubState : Obligations.StatusPortsShowTheSubState := by
  refine fun a s => ⟨fun hconf => ?_, fun hconf => ?_⟩
  · have hst : readSt a s = .ok (subStateCode (s.axis a).sub) := by
      rw [readSt, readStatus_of_configured hconf]
    refine ⟨hst, ?_⟩
    rw [hst, readDone, readStatus_of_configured hconf]
    simp [subStateCode_eq_done_iff]
  · have hread := readStatus_of_unconfigured hconf
    exact ⟨by rw [readSt, hread], by rw [readDone, hread], rfl⟩

end Sys2Proof.Machine
end

section
/-! PROOFS. One presentation is one step, and operations on different axes commute (rules R63, R68 of
spec/20_memory.md). -/

namespace Sys2Proof.Machine

/-! ### A presentation runs the operation its words decode to (rules R63, R80). -/

theorem step_present {s : State} {p : Presentation} {rest : List Input} (h : s.inbox = .present p :: rest) :
    step s = exec (decode p) { s with ports := p, inbox := rest } := by
  simp only [step, performNext, h, perform, present]

theorem decodeTableWord_eq_some {nbits w : Nat} {i : Instr} :
    decodeTableWord nbits w = some i ↔ ∃ p, unpack (w % 2 ^ nbits) = .ok p ∧ decode p = i := by
  unfold decodeTableWord
  cases unpack (w % 2 ^ nbits) <;> simp

theorem withFetchWord_of_unpack {nbits w : Nat} {p : Presentation} (s : State)
    (h : unpack (w % 2 ^ nbits) = .ok p) : s.withFetchWord nbits w = { s with inbox := .present p :: s.inbox } := by
  simp only [State.withFetchWord, h]

/-- Settles O5: `withFetchWord` puts the presentation the table word unpacks to in front of the inputs, and the step
that consumes a presentation runs its operation. -/
theorem stepRunsTheDecodedOperation : Obligations.StepRunsTheDecodedOperation := by
  refine ⟨fun s p rest => step_present, fun s nbits w i h => ?_⟩
  obtain ⟨p, hp, hdecode⟩ := decodeTableWord_eq_some.mp h
  exact ⟨p, hdecode, by rw [withFetchWord_of_unpack s hp, step_present rfl, hdecode]⟩

/-! ### What an operation on one axis depends on (rule R20). -/

/-- All an operation on axis `a` can see is the same in both states: the record of the axis, the parameters and the
clock; and the lines of `P` are at the same levels. -/
structure SameView (a : Axis) (P : Set Pin) (s u : State) : Prop where
  axis : u.axis a = s.axis a
  config : u.config = s.config
  time : u.time = s.time
  line : ∀ p ∈ P, u.line p = s.line p

namespace SameView

variable {a : Axis} {P : Set Pin} {s u : State}

theorem symm (h : SameView a P s u) : SameView a P u s where
  axis := h.axis.symm
  config := h.config.symm
  time := h.time.symm
  line p hp := (h.line p hp).symm

theorem readUsec_eq (h : SameView a P s u) : readUsec u = readUsec s := by
  rw [readUsec, readUsec, h.time, h.config]

theorem timeTest_eq (h : SameView a P s u) (now : Nat) : timeTest u a now = timeTest s a now := by
  rw [timeTest, timeTest, h.axis, h.config]

theorem drawResult (h : SameView a P s u) : SameView a P (drawResult s) (drawResult u) where
  axis := by simp [h.axis]
  config := h.config
  time := h.time
  line := h.line

theorem setAxis (h : SameView a P s u) (m : MotorAxis) : SameView a P (s.setAxis a m) (u.setAxis a m) where
  axis := by simp
  config := by simp [h.config]
  time := by simp [h.time]
  line p hp := by simp [h.line p hp]

/-- Writes of the same line keep the view; their levels need to agree only where the line is one of `P`. -/
theorem writeLine (h : SameView a P s u) {q : Pin} {level level' : Level} (time : Option Nat)
    (hlevel : q ∈ P → level' = level) : SameView a P (writeLine q level time s) (writeLine q level' time u) where
  axis := by simp [h.axis]
  config := h.config
  time := h.time
  line p hp := by
    by_cases hpq : p = q
    · subst hpq
      simp [hlevel hp]
    · rw [line_writeLine_ne _ _ _ hpq, line_writeLine_ne _ _ _ hpq, h.line p hp]

theorem advanceAxis (h : SameView a P s u) (r : Word) (now : Nat) :
    SameView a P (advanceAxis a r now s) (advanceAxis a r now u) := by
  unfold Machine.advanceAxis highEdgeIfDue lowEdgeIfDue acceptCommand
  rw [h.axis, h.config, h.timeTest_eq]
  cases (s.axis a).sub with
  | idle =>
    cases isCommand s.config a r
    · exact h
    · exact h.setAxis _
  | pulseHigh =>
    cases timeTest s a now
    · exact h
    · exact (h.writeLine _ fun _ => rfl).setAxis _
  | pulseLow =>
    cases timeTest s a now
    · exact h
    · exact (h.writeLine _ fun _ => rfl).setAxis _
  | done => exact h.setAxis _

/-- FREERUN's toggle reads a line, the one it writes. -/
theorem freerunAxis (h : SameView a P s u) (now : Nat) :
    SameView a P (freerunAxis a now s) (freerunAxis a now u) := by
  unfold Machine.freerunAxis toggleStepLine
  rw [h.axis, h.timeTest_eq]
  cases (s.axis a).timeHeld
  · exact h.setAxis _
  · cases timeTest s a now
    · exact h
    · exact (h.writeLine _ fun hp => by rw [h.line _ hp]).setAxis _

/-- An operation on the axis, SETUP aside, that completes in one state completes in the other, and keeps the view. -/
theorem exec {i : Instr} {t : State} (h : SameView a P s u) (ha : axisOf i = some a) (hi : isSetup i = false)
    (hs : exec i s = .next t) : ∃ v, exec i u = .next v ∧ SameView a P t v := by
  cases i with
  | setup => cases hi
  | advance b r =>
    cases ha
    obtain ⟨hr, hfits, hconf, rfl⟩ := execAdvance_eq_next.mp hs
    refine ⟨_, execAdvance_eq_next.mpr ⟨hr, by rwa [h.config], by rwa [h.axis], rfl⟩, ?_⟩
    rw [h.readUsec_eq]
    exact (h.advanceAxis r _).drawResult
  | rearm b =>
    cases ha
    obtain ⟨hconf, rfl⟩ := execRearm_eq_next.mp hs
    refine ⟨_, execRearm_eq_next.mpr ⟨by rwa [h.axis], rfl⟩, ?_⟩
    rw [h.axis]
    exact (h.setAxis _).drawResult
  | dir b level rsv =>
    cases ha
    obtain ⟨hrsv, hconf, rfl⟩ := execDir_eq_next.mp hs
    refine ⟨_, execDir_eq_next.mpr ⟨hrsv, by rwa [h.axis], rfl⟩, ?_⟩
    rw [h.axis]
    exact (h.writeLine none fun _ => rfl).drawResult
  | freerun b =>
    cases ha
    obtain ⟨hconf, hsub, rfl⟩ := execFreerun_eq_next.mp hs
    refine ⟨_, execFreerun_eq_next.mpr ⟨by rwa [h.axis], by rwa [h.axis], rfl⟩, ?_⟩
    rw [h.readUsec_eq]
    exact (h.freerunAxis _).drawResult
  | sample => cases ha
  | reserved x b => exact absurd hs (raise_ne_next _ _ _)
  | sampleAxisBit => cases ha

end SameView

/-- An operation not addressed to axis `b` leaves the axis' view of the machine, on the lines whose level it keeps. -/
theorem exec_sameView_of_not_addressed {i : Instr} {b : Axis} {s t : State} (hb : axisOf i ≠ some b)
    (h : exec i s = .next t) : SameView b {p | t.line p = s.line p} s t where
  axis := exec_axis_of_not_addressed hb h
  config := (exec_sameEnvironment h).config
  time := (exec_sameEnvironment h).time
  line _ hp := hp

/-! ### What an operation on an axis leaves alone: the filter, and the lines that are not the axis' own. -/

theorem sameFilter_advanceAxis (a : Axis) (r : Word) (now : Nat) (s : State) :
    SameFilter s (advanceAxis a r now s) := by
  rcases advanceAxis_cases a r now s with
    ⟨-, -, e⟩ | ⟨-, -, e⟩ | ⟨-, -, e⟩ | ⟨-, -, e⟩ | ⟨-, -, e⟩ | ⟨-, e⟩ <;>
    simp [e, acceptCommand, SameFilter]

theorem sameFilter_freerunAxis (a : Axis) (now : Nat) (s : State) : SameFilter s (freerunAxis a now s) := by
  rcases freerunAxis_cases a now s with ⟨-, e⟩ | ⟨-, -, e⟩ | ⟨-, -, e⟩ <;> simp [e, toggleStepLine, SameFilter]

/-- SAMPLE alone writes the filter (rules R38, R39). -/
theorem exec_sameFilter {i : Instr} {s t : State} (hi : ∀ operand, i ≠ .sample operand) (h : exec i s = .next t) :
    SameFilter s t := by
  cases i with
  | setup a sp dp rsv speed =>
    obtain ⟨-, -, -, hp, -, rfl⟩ := execSetup_eq_next.mp h
    simp [SameFilter]
  | advance a r =>
    obtain ⟨-, -, -, rfl⟩ := execAdvance_eq_next.mp h
    exact sameFilter_advanceAxis a r _ s
  | rearm a =>
    obtain ⟨-, rfl⟩ := execRearm_eq_next.mp h
    simp [SameFilter]
  | dir a level rsv =>
    obtain ⟨-, -, rfl⟩ := execDir_eq_next.mp h
    simp [SameFilter]
  | freerun a =>
    obtain ⟨-, -, rfl⟩ := execFreerun_eq_next.mp h
    exact sameFilter_freerunAxis a _ s
  | sample operand => exact absurd rfl (hi operand)
  | reserved x a => exact absurd h (raise_ne_next _ _ _)
  | sampleAxisBit => exact absurd h (raise_ne_next _ _ _)

theorem ne_sample_of_axisOf {i : Instr} {a : Axis} (ha : axisOf i = some a) (operand : Word) : i ≠ .sample operand := by
  rintro rfl
  cases ha

/-- The line belongs to the axis with the record `m` (rule R119). -/
def OwnsLine (m : MotorAxis) (p : Pin) : Prop := m.configured = true ∧ (p = m.stepPin ∨ p = m.dirPin)

theorem AxesApart.not_ownsLine {s : State} {a b : Axis} {p : Pin} (h : AxesApart s) (hab : a ≠ b)
    (hb : OwnsLine (s.axis b) p) : ¬ OwnsLine (s.axis a) p := by
  obtain rfl : a = b.other := (eq_or_eq_other b a).resolve_left hab
  obtain ⟨hbconf, hbpin⟩ := hb
  rintro ⟨haconf, hapin⟩
  obtain ⟨hss, hsd, hds, hdd⟩ := (axesApart_iff b).mp h hbconf haconf
  rcases hbpin with rfl | rfl <;> rcases hapin with e | e
  · exact hss e
  · exact hsd e
  · exact hds e
  · exact hdd e

theorem exec_line_of_not_own {i : Instr} {a : Axis} {s t : State} {p : Pin} (ha : axisOf i = some a)
    (hp : ¬ OwnsLine (s.axis a) p) (h : exec i s = .next t) : t.line p = s.line p := by
  rcases exec_out h with hout | ⟨b, hb, hconf, hout | ⟨q, level, hq, hout⟩⟩
  · simp only [State.line, hout]
  · simp only [State.line, hout]
  · obtain rfl : a = b := Option.some.inj (ha.symm.trans hb)
    have hne : p ≠ q := fun e => hp ⟨hconf, e ▸ hq⟩
    rw [State.line, hout]
    exact lineLevel_setLine_ne level s.out hne

/-! ### Operations on different axes commute (rule R68). -/

theorem SameFilter.symm {s t : State} (h : SameFilter s t) : SameFilter t s := ⟨h.1.symm, h.2.symm⟩

theorem SameFilter.trans {s t u : State} (ht : SameFilter s t) (hu : SameFilter t u) : SameFilter s u :=
  ⟨hu.1.trans ht.1, hu.2.trans ht.2⟩

theorem SameEnvironment.symm {s t : State} (h : SameEnvironment s t) : SameEnvironment t s := by
  obtain ⟨⟩ := h
  constructor <;> simp only [*]

theorem SameEnvironment.trans {s t u : State} (ht : SameEnvironment s t) (hu : SameEnvironment t u) :
    SameEnvironment s u := by
  obtain ⟨⟩ := ht
  obtain ⟨⟩ := hu
  constructor <;> simp only [*]

/-- With `i` and `j` in either order, a line of `j`'s axis `b` is as `j` leaves it, for `i` does not touch it, and any
other line is as `i` leaves it. -/
theorem line_eq_of_both_orders {i j : Instr} {a b : Axis} {s s1 s2 t1 t2 : State} (hi : axisOf i = some a)
    (hj : axisOf j = some b) (hab : a ≠ b) (h1 : exec i s = .next s1) (h2 : exec j s1 = .next s2)
    (h3 : exec j s = .next t1) (h4 : exec i t1 = .next t2) (hviewA : SameView a {p | t1.line p = s.line p} s1 t2)
    (hviewB : SameView b {p | s1.line p = s.line p} s2 t1) (hapart : AxesApart s) (p : Pin) :
    t2.line p = s2.line p := by
  have ht1 : t1.axis a = s.axis a := exec_axis_of_not_addressed (by simpa [hj] using hab.symm) h3
  have hs1 : s1.axis b = s.axis b := exec_axis_of_not_addressed (by simpa [hi] using hab) h1
  by_cases hp : OwnsLine (s.axis b) p
  · have hpa : ¬ OwnsLine (s.axis a) p := hapart.not_ownsLine hab hp
    calc t2.line p = t1.line p := exec_line_of_not_own hi (ht1 ▸ hpa) h4
      _ = s2.line p := hviewB.line p (exec_line_of_not_own hi hpa h1)
  · calc t2.line p = s1.line p := hviewA.line p (exec_line_of_not_own hj hp h3)
      _ = s2.line p := (exec_line_of_not_own hj (hs1 ▸ hp) h2).symm

/-- Settles O46: neither operation changes what the other sees (`SameView`), so each does the same in either order. -/
theorem operationsOnDifferentAxesCommute : Obligations.OperationsOnDifferentAxesCommute := by
  intro i j a b s s1 s2 hi hj hab hsi hsj h1 h2
  have hib : axisOf i ≠ some b := by simpa [hi] using hab
  have hja : axisOf j ≠ some a := by simpa [hj] using hab.symm
  obtain ⟨t1, h3, hviewB⟩ := (exec_sameView_of_not_addressed hib h1).symm.exec hj hsj h2
  obtain ⟨t2, h4, hviewA⟩ := (exec_sameView_of_not_addressed hja h3).exec hi hsi h1
  have haxisA : t2.axis a = s2.axis a := hviewA.axis.trans (exec_axis_of_not_addressed hja h2).symm
  have haxisB : t2.axis b = s2.axis b := (exec_axis_of_not_addressed hib h4).trans hviewB.axis
  have haxis (c : Axis) : t2.axis c = s2.axis c := by
    obtain rfl : b = a.other := (eq_or_eq_other a b).resolve_left hab.symm
    rcases eq_or_eq_other a c with rfl | rfl
    · exact haxisA
    · exact haxisB
  have hfilter {k : Instr} {c : Axis} {u v : State} (hk : axisOf k = some c) (h : exec k u = .next v) :
      SameFilter u v := exec_sameFilter (ne_sample_of_axisOf hk) h
  refine ⟨t1, t2, h3, h4, haxis .y, haxis .z, ?_, ?_,
    line_eq_of_both_orders hi hj hab h1 h2 h3 h4 hviewA hviewB⟩
  · exact ((hfilter hi h1).trans (hfilter hj h2)).symm.trans ((hfilter hj h3).trans (hfilter hi h4))
  · exact ((exec_sameEnvironment h1).trans (exec_sameEnvironment h2)).symm.trans
      ((exec_sameEnvironment h3).trans (exec_sameEnvironment h4))

end Sys2Proof.Machine
end

section
/-! PROOFS. The words of an operation and the operation of the words (rules R80 to R86, R93 of
spec/30_encoding.md): encoding and decoding undo each other. -/

namespace Sys2Proof

/-! ### The command word is its opcode and its axis bit (rules R81, R82). -/

@[simp] theorem axisOfBit_bitOfAxis (a : Axis) : axisOfBit (bitOfAxis a) = a := by cases a <;> rfl

@[simp] theorem bitOfAxis_axisOfBit (b : BitVec 1) : bitOfAxis (axisOfBit b) = b := by revert b; decide

@[simp] theorem levelOfBit_bitOfLevel (level : Level) : levelOfBit (bitOfLevel level) = level := by cases level <;> rfl

@[simp] theorem bitOfLevel_levelOfBit (b : BitVec 1) : bitOfLevel (levelOfBit b) = b := by revert b; decide

@[simp] theorem opcodeOf_commandWord (opcode : BitVec 3) (a : Axis) : opcodeOf (commandWord opcode a) = opcode :=
  BitVec.extractLsb'_append_eq_left

@[simp] theorem axisBitOf_commandWord (opcode : BitVec 3) (a : Axis) :
    axisBitOf (commandWord opcode a) = bitOfAxis a :=
  BitVec.extractLsb'_append_eq_right

theorem eq_commandWord {cmd : BitVec 4} {opcode : BitVec 3} (h : opcodeOf cmd = opcode) :
    commandWord opcode (axisOfBit (axisBitOf cmd)) = cmd := by
  rw [← h, commandWord, bitOfAxis_axisOfBit]
  exact BitVec.extractLsb'_append_extractLsb'

/-- The free bit of a reserved opcode `11x` is `CMD[1]` (rule R94). -/
theorem extractLsb'_commandWord_reserved (x : BitVec 1) (a : Axis) :
    (commandWord ((0b11#2 : BitVec 2) ++ x) a).extractLsb' 1 1 = x := by
  cases a <;> revert x <;> decide

theorem reservedOpcode_eq {cmd : BitVec 4} (h : opcodeOf cmd = 0b110#3 ∨ opcodeOf cmd = 0b111#3) :
    (0b11#2 : BitVec 2) ++ cmd.extractLsb' 1 1 = opcodeOf cmd := by
  revert cmd; decide

/-! ### The operand fields of `A` (rules R83, R86). -/

theorem setupOperand_fields (reservedBits : BitVec 16) (dirPin stepPin : Pin) :
    BitVec.extractLsb' 0 8 (reservedBits ++ dirPin ++ stepPin) = stepPin ∧
    BitVec.extractLsb' 8 8 (reservedBits ++ dirPin ++ stepPin) = dirPin ∧
    BitVec.extractLsb' 16 16 (reservedBits ++ dirPin ++ stepPin) = reservedBits := by
  refine ⟨BitVec.extractLsb'_append_eq_right, ?_, ?_⟩
  · rw [BitVec.extractLsb'_append_eq_of_le (by omega)]
    exact BitVec.extractLsb'_append_eq_right
  · rw [BitVec.extractLsb'_append_eq_of_le (by omega)]
    exact BitVec.extractLsb'_append_eq_left

theorem setupOperand_of_fields (a : Word) : a.extractLsb' 16 16 ++ a.extractLsb' 8 8 ++ a.extractLsb' 0 8 = a := by
  rw [BitVec.extractLsb'_append_extractLsb'_eq_extractLsb' (start₁ := 8) (len₁ := 8) rfl]
  exact BitVec.extractLsb'_append_extractLsb'

/-! ### What each row of the opcode map decodes to (rule R93). -/

section
variable {p : Presentation}

theorem decode_setup (h : opcodeOf p.cmd = 0b000#3) :
    decode p = .setup (axisOfBit (axisBitOf p.cmd)) (p.a.extractLsb' 0 8) (p.a.extractLsb' 8 8)
      (p.a.extractLsb' 16 16) p.b := by
  simp [decode, h]

theorem decode_advance (h : opcodeOf p.cmd = 0b001#3) : decode p = .advance (axisOfBit (axisBitOf p.cmd)) p.a := by
  simp [decode, h]

theorem decode_rearm (h : opcodeOf p.cmd = 0b010#3) : decode p = .rearm (axisOfBit (axisBitOf p.cmd)) := by
  simp [decode, h]

theorem decode_dir (h : opcodeOf p.cmd = 0b011#3) :
    decode p = .dir (axisOfBit (axisBitOf p.cmd)) (levelOfBit (p.a.extractLsb' 0 1)) (p.a.extractLsb' 1 31) := by
  simp [decode, h]

theorem decode_freerun (h : opcodeOf p.cmd = 0b100#3) : decode p = .freerun (axisOfBit (axisBitOf p.cmd)) := by
  simp [decode, h]

theorem decode_sample (h : p.cmd = 0b1010#4) : decode p = .sample p.a := by
  simp [decode, h, show opcodeOf 0b1010#4 = 0b101#3 by decide, show axisBitOf 0b1010#4 = 0#1 by decide]

theorem decode_sampleAxisBit (h : p.cmd = 0b1011#4) : decode p = .sampleAxisBit := by
  simp [decode, h, show opcodeOf 0b1011#4 = 0b101#3 by decide, show axisBitOf 0b1011#4 = 1#1 by decide]

theorem decode_reserved (h : opcodeOf p.cmd = 0b110#3 ∨ opcodeOf p.cmd = 0b111#3) :
    decode p = .reserved (p.cmd.extractLsb' 1 1) (axisOfBit (axisBitOf p.cmd)) := by
  rcases h with h | h <;> simp [decode, h]

end

/-- Every command word is in one row of the opcode map (rule R93). -/
theorem opcode_rows (cmd : BitVec 4) :
    opcodeOf cmd = 0b000#3 ∨ opcodeOf cmd = 0b001#3 ∨ opcodeOf cmd = 0b010#3 ∨ opcodeOf cmd = 0b011#3 ∨
      opcodeOf cmd = 0b100#3 ∨ cmd = 0b1010#4 ∨ cmd = 0b1011#4 ∨ opcodeOf cmd = 0b110#3 ∨ opcodeOf cmd = 0b111#3 := by
  revert cmd; decide

/-! ### Decoding and encoding undo each other, up to the ignored ports (rule R80). -/

theorem decode_encode (i : Instr) : decode (encode i) = i := by
  cases i with
  | setup a stepPin dirPin reservedBits speed =>
    obtain ⟨hstep, hdir, hreserved⟩ := setupOperand_fields reservedBits dirPin stepPin
    rw [decode_setup (opcodeOf_commandWord _ _)]
    simp only [encode, axisBitOf_commandWord, axisOfBit_bitOfAxis, hstep, hdir, hreserved]
  | advance a r =>
    rw [decode_advance (opcodeOf_commandWord _ _)]
    simp [encode]
  | rearm a =>
    rw [decode_rearm (opcodeOf_commandWord _ _)]
    simp [encode]
  | dir a level reservedBits =>
    have hlevel : BitVec.extractLsb' 0 1 (reservedBits ++ bitOfLevel level) = bitOfLevel level :=
      BitVec.extractLsb'_append_eq_right
    have hreserved : BitVec.extractLsb' 1 31 (reservedBits ++ bitOfLevel level) = reservedBits :=
      BitVec.extractLsb'_append_eq_left
    rw [decode_dir (opcodeOf_commandWord _ _)]
    simp only [encode, axisBitOf_commandWord, axisOfBit_bitOfAxis, hlevel, hreserved, levelOfBit_bitOfLevel]
  | freerun a =>
    rw [decode_freerun (opcodeOf_commandWord _ _)]
    simp [encode]
  | sample operand => exact decode_sample rfl
  | reserved x a =>
    have hopcode : (0b11#2 : BitVec 2) ++ x = 0b110#3 ∨ (0b11#2 : BitVec 2) ++ x = 0b111#3 := by revert x; decide
    rw [decode_reserved (by simpa only [encode, opcodeOf_commandWord] using hopcode)]
    simp only [encode, axisBitOf_commandWord, axisOfBit_bitOfAxis, extractLsb'_commandWord_reserved]
  | sampleAxisBit => exact decode_sampleAxisBit rfl

/-- The operation of the command word uses port `A`: SETUP, ADVANCE, DIR and SAMPLE do (rules R80, R83, R84, R86). -/
def usesPortA (cmd : BitVec 4) : Bool :=
  decide (opcodeOf cmd = 0b000#3 ∨ opcodeOf cmd = 0b001#3 ∨ opcodeOf cmd = 0b011#3 ∨ cmd = 0b1010#4)

/-- REARM, FREERUN, SAMPLE with the axis bit and the reserved opcodes do not. -/
theorem usesPortA_eq_false {cmd : BitVec 4}
    (h : opcodeOf cmd = 0b010#3 ∨ opcodeOf cmd = 0b100#3 ∨ cmd = 0b1011#4 ∨
      opcodeOf cmd = 0b110#3 ∨ opcodeOf cmd = 0b111#3) : usesPortA cmd = false := by
  revert cmd; decide

/-- A presentation with its ignored ports zero: SETUP alone uses port `B` (rule R80). -/
def usedWords (p : Presentation) : Presentation where
  cmd := p.cmd
  a := if usesPortA p.cmd then p.a else 0#32
  b := if opcodeOf p.cmd = 0b000#3 then p.b else 0#32

/-- Encoding what a presentation decodes to gives its words back, the ignored ports zero. -/
theorem encode_decode (p : Presentation) : encode (decode p) = usedWords p := by
  rcases opcode_rows p.cmd with h | h | h | h | h | h | h | h
  · rw [decode_setup h]
    simp [encode, usedWords, usesPortA, h, eq_commandWord h, setupOperand_of_fields]
  · rw [decode_advance h]
    simp [encode, usedWords, usesPortA, h, eq_commandWord h]
  · rw [decode_rearm h]
    simp [encode, usedWords, usesPortA_eq_false, h, eq_commandWord h]
  · have hfields : p.a.extractLsb' 1 31 ++ p.a.extractLsb' 0 1 = p.a := BitVec.extractLsb'_append_extractLsb'
    rw [decode_dir h]
    simp [encode, usedWords, usesPortA, h, eq_commandWord h, hfields]
  · rw [decode_freerun h]
    simp [encode, usedWords, usesPortA_eq_false, h, eq_commandWord h]
  · rw [decode_sample h]
    simp only [encode, usedWords, h]
    rfl
  · rw [decode_sampleAxisBit h]
    simp only [encode, usedWords, h]
    rfl
  · have hb : opcodeOf p.cmd ≠ 0b000#3 := by rcases h with h | h <;> rw [h] <;> decide
    rw [decode_reserved h]
    simp [encode, usedWords, usesPortA_eq_false, h, hb, eq_commandWord (reservedOpcode_eq h).symm]

/-- What the ignored ports hold makes no difference (rule R95). -/
theorem decode_eq_of_usedWords_eq {p p' : Presentation} (h : usedWords p = usedWords p') : decode p = decode p' := by
  rw [← decode_encode (decode p), encode_decode, h, ← encode_decode, decode_encode]

/-- Settles O1, by the operations one at a time. -/
theorem encodedOperationsDecodeBack : Obligations.EncodedOperationsDecodeBack := decode_encode

/-- Settles O2: what comes back is the presentation with its ignored ports zero. -/
theorem decodingKeepsTheUsedWords : Obligations.DecodingKeepsTheUsedWords := by
  intro p
  rw [encode_decode]
  exact ⟨rfl, fun h => if_pos (decide_eq_true h), fun h => if_pos h⟩

end Sys2Proof
end

section
/-! PROOFS. The reserved encodings, which fault and change nothing (rules R94, R95 of spec/30_encoding.md). -/

namespace Sys2Proof.Machine

/-- An operation that is not well formed faults with the words on the ports, in every state (rules R94, R95, R111). -/
theorem exec_of_not_wellFormed {i : Instr} {s : State} (h : i.wellFormed s.config = false) :
    exec i s = .fault (.illegal s.ports) := by
  cases i with
  | setup a sp dp rsv speed =>
    have hrsv : rsv ≠ 0#16 := by simpa [Instr.wellFormed] using h
    simp [exec, execSetup, hrsv, raise]
  | advance a r => cases h
  | rearm a => cases h
  | dir a level rsv =>
    have hrsv : rsv ≠ 0#31 := by simpa [Instr.wellFormed] using h
    simp [exec, execDir, hrsv, raise]
  | freerun a => cases h
  | sample operand =>
    have hraw : rawFits s.config operand = false := h
    simp [exec, execSample, hraw, raise]
  | reserved x a => rfl
  | sampleAxisBit => rfl

theorem present_of_not_wellFormed {p : Presentation} {s : State} (h : (decode p).wellFormed s.config = false) :
    present p s = .fault (.illegal p) :=
  exec_of_not_wellFormed h

/-- Settles O11: a reserved operation is not well formed, whatever the parameters. -/
theorem reservedOpcodesFault : Obligations.ReservedOpcodesFault :=
  ⟨fun _ _ _ => exec_of_not_wellFormed rfl,
    fun _ _ h => present_of_not_wellFormed (by rw [decode_reserved h]; rfl)⟩

/-- Rule R95's four reserved fields, each read off its row of the opcode map, make the operation ill formed. -/
theorem decode_not_wellFormed {p : Presentation} {c : Config}
    (h : (opcodeOf p.cmd = 0b000#3 ∧ p.a.extractLsb' 16 16 ≠ 0#16) ∨
      (opcodeOf p.cmd = 0b011#3 ∧ p.a.extractLsb' 1 31 ≠ 0#31) ∨
      (p.cmd = 0b1010#4 ∧ 2 ^ c.rawBits ≤ p.a.toNat) ∨ p.cmd = 0b1011#4) :
    (decode p).wellFormed c = false := by
  rcases h with ⟨h, hrsv⟩ | ⟨h, hrsv⟩ | ⟨h, hraw⟩ | h
  · rw [decode_setup h]
    exact beq_false_of_ne hrsv
  · rw [decode_dir h]
    exact beq_false_of_ne hrsv
  · rw [decode_sample h]
    exact decide_eq_false (not_lt.mpr hraw)
  · rw [decode_sampleAxisBit h]
    rfl

/-- Settles O12: such a presentation decodes to an ill-formed operation, and decoding sees the used words alone. -/
theorem reservedBitsFault : Obligations.ReservedBitsFault := by
  refine ⟨fun s => exec_of_not_wellFormed rfl, fun p s h => present_of_not_wellFormed (decode_not_wellFormed h),
    fun cmd a a' b b' => ⟨fun h => ?_, fun h => ?_⟩⟩
  · exact decode_eq_of_usedWords_eq (by simp [usedWords, h])
  · have hA : usesPortA cmd = false := usesPortA_eq_false (by tauto)
    have hB : opcodeOf cmd ≠ 0b000#3 := by rcases h with h | h <;> rw [h] <;> decide
    exact decode_eq_of_usedWords_eq (by simp [usedWords, hA, hB])

end Sys2Proof.Machine
end

section
/-! PROOFS. The value of a NUM word, its two zeros alike (rule R88), and the result port (rule R92) of
spec/30_encoding.md. -/

namespace Sys2Proof.Machine

/-- The value of a word by its sign bit, mantissa and exponent (rule R88). -/
theorem numVal_eq (w : Word) :
    numVal w = (-1) ^ (w.getLsbD 31).toNat * ((numMantissa w : ℚ) * 2 ^ ((effectiveExponent w : ℤ) - 150)) := by
  rw [numVal, numSign, numMagnitude_eq]
  cases w.getLsbD 31 <;> simp

theorem numVal_of_normal {w : Word} (h : 1 ≤ numExponent w) :
    numVal w = (-1) ^ (w.getLsbD 31).toNat * 2 ^ ((numExponent w : ℤ) - 127) * (1 + (numFraction w : ℚ) / 2 ^ 23) := by
  have hexp : effectiveExponent w = numExponent w := max_eq_left h
  have hman : numMantissa w = 2 ^ 23 + numFraction w := if_neg (by omega)
  have hunit : (2 : ℚ) ^ ((numExponent w : ℤ) - 150) = 2 ^ ((numExponent w : ℤ) - 127) / 2 ^ 23 := by
    rw [← zpow_natCast, ← zpow_sub₀ two_ne_zero]
    congr 1
    push_cast
    ring
  rw [numVal_eq, hexp, hman, hunit]
  push_cast
  ring

theorem numVal_of_subnormal {w : Word} (h : numExponent w = 0) :
    numVal w = (-1) ^ (w.getLsbD 31).toNat * 2 ^ (-126 : ℤ) * ((numFraction w : ℚ) / 2 ^ 23) := by
  have hexp : effectiveExponent w = 1 := by simp [effectiveExponent, h]
  have hman : numMantissa w = numFraction w := if_pos h
  rw [numVal_eq, hexp, hman]
  norm_num
  ring

/-- ADVANCE looks at its operand through finiteness, zero test and target alone (rules R115, R122, R124). -/
theorem execAdvance_congr {a : Axis} {r r' : Word} {s : State} (hfinite : numFinite r = numFinite r')
    (hzero : numIsZero r = numIsZero r') (htarget : targetOf s.config a r = targetOf s.config a r') :
    execAdvance a r s = execAdvance a r' s := by
  have hfits : targetFits s.config a r = targetFits s.config a r' := by rw [targetFits, targetFits, htarget]
  have hcommand : isCommand s.config a r = isCommand s.config a r' := by rw [isCommand, isCommand, hzero, htarget]
  have hadvance : advanceAxis a r (readUsec s) s = advanceAxis a r' (readUsec s) s := by
    rw [advanceAxis, advanceAxis, hcommand, htarget]
  rw [execAdvance, execAdvance, hfinite, hfits, hadvance]

/-- SETUP looks at its speed through finiteness and half-period alone (rules R111, R117). -/
theorem execSetup_congr {a : Axis} {sp dp : Pin} {rsv : BitVec 16} {speed speed' : Word} {s : State}
    (hfinite : numFinite speed = numFinite speed')
    (hperiod : legalHalfPeriod s.config a speed = legalHalfPeriod s.config a speed') :
    execSetup a sp dp rsv speed s = execSetup a sp dp rsv speed' s := by
  simp only [execSetup, hfinite, hperiod]

theorem targetOf_of_isZero {r : Word} (h : numIsZero r = true) (c : Config) (a : Axis) : targetOf c a r = 0 := by
  simp [targetOf, h]

theorem legalHalfPeriod_of_nonpos {speed : Word} (h : numVal speed ≤ 0) (c : Config) (a : Axis) :
    legalHalfPeriod c a speed = none := by
  simp [legalHalfPeriod, halfPeriodOf, Rat.num_nonpos.mpr h]

theorem numVal_ten : numVal 0x41200000#32 = 10 := by decide

theorem numVal_quarter : numVal 0x3E800000#32 = 1 / 4 := by
  have hexp : numExponent 0x3E800000#32 = 125 := by decide
  have hfraction : numFraction 0x3E800000#32 = 0 := by decide
  have hsign : (0x3E800000#32).getLsbD 31 = false := by decide
  rw [numVal_of_normal (by omega), hexp, hfraction, hsign]
  norm_num

/-- Settles O3: each of the seven words is a row of the opcode map, and the two values are rule R88's. -/
theorem workedEncodings : Obligations.WorkedEncodings :=
  ⟨by decide, numVal_ten, by decide, numVal_quarter, by decide, by decide, by decide, by decide, by decide⟩

theorem numVal_posZero : numVal 0x00000000#32 = 0 := by decide

theorem numVal_negZero : numVal 0x80000000#32 = 0 := by decide

theorem numIsZero_posZero : numIsZero 0x00000000#32 = true := by decide

theorem numIsZero_negZero : numIsZero 0x80000000#32 = true := by decide

/-- Settles O15: the value is mantissa times unit, and a zero word has target 0 and no half-period, whatever its sign. -/
theorem numWordValue : Obligations.NumWordValue := by
  refine ⟨fun w => by simp [numFinite], fun w h _ => numVal_of_normal h, fun w => numVal_of_subnormal,
    numVal_posZero, numVal_negZero, fun a s => ?_, fun a sp dp rsv s => ?_⟩
  · exact execAdvance_congr (by decide) (by decide)
      (by rw [targetOf_of_isZero numIsZero_negZero, targetOf_of_isZero numIsZero_posZero])
  · exact execSetup_congr (by decide)
      (by rw [legalHalfPeriod_of_nonpos numVal_negZero.le, legalHalfPeriod_of_nonpos numVal_posZero.le])

@[simp] theorem draws_advanceAxis (a : Axis) (r : Word) (now : Nat) (s : State) :
    (advanceAxis a r now s).draws = s.draws := by
  rcases advanceAxis_cases a r now s with
    ⟨-, -, e⟩ | ⟨-, -, e⟩ | ⟨-, -, e⟩ | ⟨-, -, e⟩ | ⟨-, -, e⟩ | ⟨-, e⟩ <;> simp [e, acceptCommand]

@[simp] theorem draws_freerunAxis (a : Axis) (now : Nat) (s : State) : (freerunAxis a now s).draws = s.draws := by
  rcases freerunAxis_cases a now s with ⟨-, e⟩ | ⟨-, -, e⟩ | ⟨-, -, e⟩ <;> simp [e, toggleStepLine]

theorem resultFree_drawResult {s u : State} (h : u.draws = s.draws) : ResultFree s (drawResult u) := by
  simp [ResultFree, h]

/-- Settles O39: every operation but SAMPLE completes by drawing its result, and draws nothing before. -/
theorem resultIsFreeButForSample : Obligations.ResultIsFreeButForSample := by
  intro i s t hi h
  cases i with
  | setup a sp dp rsv speed =>
    obtain ⟨-, -, -, hp, -, rfl⟩ := execSetup_eq_next.mp h
    exact resultFree_drawResult (draws_setAxis _ _ _)
  | advance a r =>
    obtain ⟨-, -, -, rfl⟩ := execAdvance_eq_next.mp h
    exact resultFree_drawResult (draws_advanceAxis _ _ _ _)
  | rearm a =>
    obtain ⟨-, rfl⟩ := execRearm_eq_next.mp h
    exact resultFree_drawResult (draws_setAxis _ _ _)
  | dir a level rsv =>
    obtain ⟨-, -, rfl⟩ := execDir_eq_next.mp h
    exact resultFree_drawResult (draws_writeLine _ _ _ _)
  | freerun a =>
    obtain ⟨-, -, rfl⟩ := execFreerun_eq_next.mp h
    exact resultFree_drawResult (draws_freerunAxis _ _ _)
  | sample operand => exact absurd rfl (hi operand)
  | reserved x a => exact absurd h (raise_ne_next _ _ _)
  | sampleAxisBit => exact absurd h (raise_ne_next _ _ _)

end Sys2Proof.Machine
end

section
/-! PROOFS. What the operands of the motor driver mean, and elapsed time (rules R112, R114, R118, R119 of
spec/40_motor_driver.md). -/

namespace Sys2Proof.Machine

/-! ### Elapsed time and the time test (rules R112, R113). -/

theorem elapsed_eq_emod (tw t1 t0 : Nat) :
    ((elapsed tw t1 t0 : ℕ) : ℤ) = ((t1 : ℤ) - (t0 : ℤ)) % ((2 ^ tw : ℕ) : ℤ) :=
  Int.toNat_of_nonneg (Int.emod_nonneg _ (by positivity))

/-- Of two readings of the counter, the difference is that of the true times, modulo the counter's range. -/
theorem elapsed_readings {tw earlier later : Nat} (h : earlier ≤ later) :
    elapsed tw (later % 2 ^ tw) (earlier % 2 ^ tw) = (later - earlier) % 2 ^ tw := by
  have : ((elapsed tw (later % 2 ^ tw) (earlier % 2 ^ tw) : ℕ) : ℤ) = (((later - earlier) % 2 ^ tw : ℕ) : ℤ) := by
    rw [elapsed_eq_emod, Int.natCast_mod, Int.natCast_mod, ← Int.sub_emod, ← Nat.cast_sub h, Int.natCast_mod]
  exact_mod_cast this

theorem elapsed_readings_le {tw earlier later : Nat} (h : earlier ≤ later) :
    elapsed tw (later % 2 ^ tw) (earlier % 2 ^ tw) ≤ later - earlier :=
  (elapsed_readings h).trans_le (Nat.mod_le _ _)

/-- Settles O20: the readings' difference and the true one are congruent modulo `2^TW`. -/
theorem elapsedTimeIsModular : Obligations.ElapsedTimeIsModular :=
  ⟨elapsed_eq_emod,
    fun _ _ _ h => ⟨elapsed_readings h, fun hlt => (elapsed_readings h).trans (Nat.mod_eq_of_lt hlt),
      elapsed_readings_le h⟩,
    by decide⟩

/-- The time test in true time: the reading `now` and the true time agree modulo `2^TW`. -/
theorem timeTest_readUsec_iff {s : State} {a : Axis} :
    timeTest s a (readUsec s) = true ↔
      ((s.axis a).halfPeriod : ℤ) ≤ ((s.time : ℤ) - ((s.axis a).lastTime : ℤ)) % ((2 ^ s.config.tw : ℕ) : ℤ) := by
  rw [timeTest, decide_eq_true_iff, ← Int.ofNat_le, elapsed_eq_emod, readUsec, Int.natCast_mod, Int.emod_sub_emod]

theorem timeTest_readUsec_eq_false_iff {s : State} {a : Axis} :
    timeTest s a (readUsec s) = false ↔
      ((s.time : ℤ) - ((s.axis a).lastTime : ℤ)) % ((2 ^ s.config.tw : ℕ) : ℤ) < ((s.axis a).halfPeriod : ℤ) := by
  rw [← Bool.not_eq_true, timeTest_readUsec_iff, not_le]

/-! ### The zero test and the sign of a NUM word (rule R88). -/

/-- The words tested for zero are those with the value 0. -/
theorem numIsZero_iff (r : Word) : numIsZero r = true ↔ numVal r = 0 := by
  have hmantissa : numVal r = 0 ↔ numMantissa r = 0 := by simp [numVal_eq, zpow_ne_zero]
  have hfields : (r.extractLsb' 0 31).toNat = numExponent r * 2 ^ 23 + numFraction r := by
    simp only [BitVec.extractLsb'_toNat, numExponent_eq, numFraction_eq, Nat.shiftRight_zero]
    omega
  rw [numIsZero, beq_iff_eq, ← BitVec.toNat_inj, hfields, hmantissa, BitVec.toNat_zero]
  have := subnormal_or_normal r
  omega

theorem numIsZero_eq_false_iff (r : Word) : numIsZero r = false ↔ numVal r ≠ 0 := by
  rw [← Bool.not_eq_true, not_iff_not]
  exact numIsZero_iff r

/-! ### The target (rules R114, R115). -/

/-- Division of integers rounding toward zero is the floor of a quotient that is not negative, the ceiling of one that
is. -/
theorem truncQuotient_eq (n : ℤ) (d : ℕ) :
    truncQuotient n d = if 0 ≤ n then ⌊(n : ℚ) / d⌋ else ⌈(n : ℚ) / d⌉ := by
  rw [truncQuotient]
  split
  case isTrue h => rw [Rat.floor_intCast_div_natCast, Int.tdiv_eq_ediv_of_nonneg h]
  case isFalse h =>
    rw [Rat.ceil_intCast_div_natCast, ← Int.tdiv_eq_ediv_of_nonneg (by omega), Int.neg_tdiv, neg_neg]

/-- The product is truncated toward zero (rule R114). -/
theorem exactTarget_eq (mpr : Nat) (r : Word) :
    exactTarget mpr r =
      if 0 ≤ numVal r then ⌊numVal r * (mpr : ℚ)⌋ else ⌈numVal r * (mpr : ℚ)⌉ := by
  have hproduct : (((numVal r).num * (mpr : ℤ) : ℤ) : ℚ) / ((numVal r).den : ℚ) = numVal r * (mpr : ℚ) := by
    push_cast
    rw [mul_div_right_comm, Rat.num_div_den]
  rw [exactTarget, truncQuotient_eq, hproduct]
  rcases Nat.eq_zero_or_pos mpr with rfl | hmpr
  · simp
  · simp only [mul_nonneg_iff_of_pos_right (Int.natCast_pos.mpr hmpr), Rat.num_nonneg]

theorem exactTarget_nonneg {r : Word} (h : 0 ≤ numVal r) (mpr : Nat) : 0 ≤ exactTarget mpr r := by
  rw [exactTarget_eq, if_pos h]
  exact Int.floor_nonneg.mpr (by positivity)

theorem exactTarget_nonpos {r : Word} (h : numVal r < 0) (mpr : Nat) : exactTarget mpr r ≤ 0 := by
  rw [exactTarget_eq, if_neg h.not_ge, Int.ceil_le, Int.cast_zero]
  exact mul_nonpos_of_nonpos_of_nonneg h.le (Nat.cast_nonneg _)

theorem targetOf_of_zero {r : Word} (h : numVal r = 0) (c : Config) (a : Axis) : targetOf c a r = 0 :=
  targetOf_of_isZero ((numIsZero_iff r).mpr h) c a

/-- A word other than the zeros has the exact target, or the platform's own (rules R9, R114; log 32). -/
theorem targetOf_cases {r : Word} (h : numVal r ≠ 0) (c : Config) (a : Axis) :
    targetOf c a r = exactTarget (c.mpr a) r ∨
      c.targetEval = .platform ∧ targetOf c a r = platformTarget (c.mpr a) r := by
  simp only [targetOf, (numIsZero_eq_false_iff r).mpr h]
  cases c.targetEval with
  | exact => exact .inl rfl
  | platform => cases productRepresentable (c.mpr a) r <;> simp

theorem targetOf_exact {c : Config} (heval : c.targetEval = .exact) (a : Axis) (r : Word) :
    targetOf c a r = exactTarget (c.mpr a) r := by
  by_cases h : numVal r = 0
  · simp [targetOf_of_zero h, exactTarget_eq, h]
  · exact (targetOf_cases h c a).resolve_right fun ⟨hplatform, _⟩ => by simp [heval] at hplatform

theorem targetOf_nonneg {r : Word} (h : 0 < numVal r) (c : Config) (a : Axis) : 0 ≤ targetOf c a r := by
  rcases targetOf_cases h.ne' c a with e | ⟨-, e⟩ <;> rw [e]
  · exact exactTarget_nonneg h.le _
  · have hsign : ¬ numSign r = true := fun hs => h.not_gt ((numVal_neg_iff h.ne').mpr hs)
    simp [platformTarget, hsign]

theorem targetOf_nonpos {r : Word} (h : numVal r < 0) (c : Config) (a : Axis) : targetOf c a r ≤ 0 := by
  rcases targetOf_cases h.ne c a with e | ⟨-, e⟩ <;> rw [e]
  · exact exactTarget_nonpos h _
  · simp [platformTarget, (numVal_neg_iff h.ne).mp h]

/-- Settles O17: dividing the integers of the product truncates it, and the platform's own target takes its sign from
the word. -/
theorem targetIsTruncatedProduct : Obligations.TargetIsTruncatedProduct :=
  ⟨fun _ a r _ heval => (targetOf_exact heval a r).trans (exactTarget_eq _ r),
    fun c a _ _ => ⟨fun h => targetOf_nonneg h c a, fun h => targetOf_nonpos h c a, fun h => targetOf_of_zero h c a⟩⟩

/-! ### The half-period (rules R117, R118). -/

theorem exactHalfPeriod_eq {speed : Word} (h : 0 < numVal speed) (mpr : Nat) :
    exactHalfPeriod mpr speed = ⌊(30000000 : ℚ) / (numVal speed * (mpr : ℚ))⌋₊ := by
  have hnum : ((numVal speed).num.toNat : ℚ) = (numVal speed).num := by
    exact_mod_cast Int.toNat_of_nonneg (Rat.num_pos.mpr h).le
  rw [exactHalfPeriod, ← Nat.floor_div_eq_div (K := ℚ)]
  congr 1
  push_cast
  rw [hnum]
  conv_rhs => rw [← Rat.num_div_den (numVal speed), div_mul_eq_mul_div, div_div_eq_mul_div]

theorem halfPeriodOf_of_nonpos {speed : Word} (h : numVal speed ≤ 0) (c : Config) (a : Axis) :
    halfPeriodOf c a speed = none := by
  simp [halfPeriodOf, Rat.num_nonpos.mpr h]

theorem halfPeriodOf_of_pos {speed : Word} (h : 0 < numVal speed) (c : Config) (a : Axis) :
    halfPeriodOf c a speed = some (positiveHalfPeriod c a speed) := by
  have hnum : ¬ (numVal speed).num ≤ 0 := not_le.mpr (Rat.num_pos.mpr h)
  simp [halfPeriodOf, hnum]

/-- Settles O16: the quotient of natural numbers is the floor of the rational quotient. -/
theorem defaultHalfPeriodIsTruncatedQuotient : Obligations.DefaultHalfPeriodIsTruncatedQuotient := by
  refine ⟨fun c a speed _ heval h => ?_, fun c a speed _ h => halfPeriodOf_of_nonpos h c a⟩
  rw [halfPeriodOf_of_pos h, ← exactHalfPeriod_eq h, positiveHalfPeriod, heval]

/-- The half-period SETUP takes is the one defined, where it is in range (rule R117). -/
theorem legalHalfPeriod_eq_some_iff {c : Config} {a : Axis} {speed : Word} {hp : Nat} :
    legalHalfPeriod c a speed = some hp ↔ halfPeriodOf c a speed = some hp ∧ 1 ≤ hp ∧ hp ≤ 2 ^ c.tw - 1 := by
  have hrange (n : Nat) : n < 2 ^ c.tw ↔ n ≤ 2 ^ c.tw - 1 := by have := Nat.two_pow_pos c.tw; omega
  unfold legalHalfPeriod
  cases halfPeriodOf c a speed with
  | none => simp
  | some n =>
    simp only [hrange, Option.ite_none_right_eq_some, Option.some.injEq]
    constructor
    · rintro ⟨h, rfl⟩
      exact ⟨rfl, h⟩
    · rintro ⟨rfl, h⟩
      exact ⟨h, rfl⟩

theorem legalHalfPeriod_eq_none {c : Config} {a : Axis} {speed : Word}
    (h : ∀ hp, halfPeriodOf c a speed = some hp → ¬(1 ≤ hp ∧ hp ≤ 2 ^ c.tw - 1)) :
    legalHalfPeriod c a speed = none := by
  refine Option.eq_none_iff_forall_ne_some.mpr fun hp e => ?_
  obtain ⟨hdefined, hrange⟩ := legalHalfPeriod_eq_some_iff.mp e
  exact h hp hdefined hrange

/-! ### The pins (rule R119). -/

theorem State.Inv.axisInv {s : State} (h : s.Inv) (a : Axis) : AxisInv s a := by
  cases a
  · exact h.axisY
  · exact h.axisZ

theorem pinExists_iff (c : Config) (p : Pin) : pinExists c p = true ↔ p ∉ c.absentPins := by simp [pinExists]

/-- Settles O19: the conjuncts one by one; the invariant says of a configured axis' own pins what the check asks. -/
theorem pinsOkMeaning : Obligations.PinsOkMeaning := by
  refine ⟨fun s a sp dp => ?_, fun s a hs hconf => ?_⟩
  · rw [pinsOk_iff, pinExists_iff, pinExists_iff]
  · have ha := hs.axisInv a
    obtain ⟨hsp, hdp⟩ := ha.pins_exist hconf
    exact pinsOk_iff.mpr ⟨hsp, hdp, ha.pins_apart hconf, (axesApart_iff a).mp hs.apart hconf⟩

end Sys2Proof.Machine
end

section
/-! PROOFS. SETUP, ADVANCE, REARM and DIR, an operation at a time: faults in their order, effects, frames, and the edges
of the sub-state (rules R111 to R141 of spec/40_motor_driver.md). -/

namespace Sys2Proof.Machine

/-! ### The order of the faults (rules R111, R232). -/

section
variable {i : Instr} {s : State}

theorem exec_of_illegal_operand (hwf : i.wellFormed s.config = true) (hoperand : operandOk i s = false) :
    exec i s = .fault (.operand s.ports) := by
  cases i with
  | setup a sp dp rsv speed =>
    obtain rfl : rsv = 0#16 := by simpa [Instr.wellFormed] using hwf
    simp only [operandOk, Bool.and_eq_false_iff, Option.isSome_eq_false_iff, Option.isNone_iff_eq_none] at hoperand
    simp only [exec, execSetup]
    rcases hoperand with (hfinite | hpins) | hperiod
    · simp [hfinite, raise]
    · cases numFinite speed <;> simp [hpins, raise]
    · cases numFinite speed <;> cases pinsOk s a sp dp <;> simp [hperiod, raise]
  | advance a r =>
    simp only [operandOk, Bool.and_eq_false_iff] at hoperand
    simp only [exec, execAdvance]
    rcases hoperand with hfinite | hfits
    · simp [hfinite, raise]
    · cases numFinite r <;> simp [hfits, raise]
  | rearm | dir | freerun | sample | reserved | sampleAxisBit => cases hoperand

theorem exec_of_unconfigured (hwf : i.wellFormed s.config = true) (hoperand : operandOk i s = true)
    (hready : axisReady i s = false) : exec i s = .fault (.unconfigured s.ports) := by
  cases i with
  | advance a r =>
    have hconf : (s.axis a).configured = false := hready
    simp only [operandOk, Bool.and_eq_true] at hoperand
    simp [exec, execAdvance, hoperand, hconf, raise]
  | rearm a =>
    have hconf : (s.axis a).configured = false := hready
    simp [exec, execRearm, hconf, raise]
  | dir a level rsv =>
    have hconf : (s.axis a).configured = false := hready
    obtain rfl : rsv = 0#31 := by simpa [Instr.wellFormed] using hwf
    simp [exec, execDir, hconf, raise]
  | freerun a =>
    have hconf : (s.axis a).configured = false := hready
    simp [exec, execFreerun, hconf, raise]
  | setup | sample | reserved | sampleAxisBit => cases hready

/-- FREERUN alone has a protocol (rule R150). -/
theorem exec_of_protocol_broken (hready : axisReady i s = true) (hprotocol : protocolOk i s = false) :
    exec i s = .fault (.protocol s.ports) := by
  cases i with
  | freerun a =>
    have hconf : (s.axis a).configured = true := hready
    have hsub : (s.axis a).sub ≠ .idle := of_decide_eq_false hprotocol
    simp [exec, execFreerun, hconf, hsub, raise]
  | setup | advance | rearm | dir | sample | reserved | sampleAxisBit => cases hprotocol

/-- SAMPLE alone refuses the median filter (rule R171; log 16). -/
theorem exec_of_median (hwf : i.wellFormed s.config = true) (hvariant : variantOk i s = false) :
    exec i s = .refused .medianVariant := by
  cases i with
  | sample operand =>
    have hraw : rawFits s.config operand = true := hwf
    have hfilter : s.config.filter ≠ .exponential := of_decide_eq_false hvariant
    simp only [exec, execSample, hraw]
    cases hf : s.config.filter with
    | median => rfl
    | exponential => exact absurd hf hfilter
  | setup | advance | rearm | dir | freerun | reserved | sampleAxisBit => cases hvariant

theorem exec_completes (hwf : i.wellFormed s.config = true) (hoperand : operandOk i s = true)
    (hready : axisReady i s = true) (hprotocol : protocolOk i s = true) (hvariant : variantOk i s = true) :
    ∃ t, exec i s = .next t := by
  cases i with
  | setup a sp dp rsv speed =>
    simp only [operandOk, Bool.and_eq_true, Option.isSome_iff_exists] at hoperand
    obtain ⟨⟨hfinite, hpins⟩, hp, hperiod⟩ := hoperand
    exact ⟨_, execSetup_eq_next.mpr ⟨eq_of_beq hwf, hfinite, hpins, hp, hperiod, rfl⟩⟩
  | advance a r =>
    simp only [operandOk, Bool.and_eq_true] at hoperand
    obtain ⟨hfinite, hfits⟩ := hoperand
    exact ⟨_, execAdvance_eq_next.mpr ⟨hfinite, hfits, hready, rfl⟩⟩
  | rearm a => exact ⟨_, execRearm_eq_next.mpr ⟨hready, rfl⟩⟩
  | dir a level rsv => exact ⟨_, execDir_eq_next.mpr ⟨eq_of_beq hwf, hready, rfl⟩⟩
  | freerun a => exact ⟨_, execFreerun_eq_next.mpr ⟨hready, of_decide_eq_true hprotocol, rfl⟩⟩
  | sample operand => exact ⟨_, execSample_eq_next.mpr ⟨hwf, of_decide_eq_true hvariant, rfl⟩⟩
  | reserved | sampleAxisBit => cases hwf

end

/-- Settles O10: one lemma per precondition, each by the operations one at a time. -/
theorem everyStopIsTheFirstBrokenPrecondition : Obligations.EveryStopIsTheFirstBrokenPrecondition :=
  fun _ _ => ⟨exec_of_not_wellFormed, exec_of_illegal_operand, exec_of_unconfigured,
    fun _ _ hready => exec_of_protocol_broken hready, fun hwf _ _ _ => exec_of_median hwf, exec_completes⟩

/-- Settles O6: with no input to come `performNext` answers its own state (rule R252). -/
theorem waitingChangesNothing : Obligations.WaitingChangesNothing :=
  fun s h => by simp only [step, performNext, h]

/-! ### What every operation on an axis leaves alone. -/

theorem exec_frame {i : Instr} {a : Axis} {s t : State} (ha : axisOf i = some a) (h : exec i s = .next t) :
    t.axis a.other = s.axis a.other ∧ SameFilter s t ∧ SameEnvironment s t ∧ ResultFree s t :=
  have hother : axisOf i ≠ some a.other := fun e => other_ne a (Option.some.inj (e.symm.trans ha))
  ⟨exec_axis_of_not_addressed hother h, exec_sameFilter (ne_sample_of_axisOf ha) h, exec_sameEnvironment h,
    resultIsFreeButForSample i s t (ne_sample_of_axisOf ha) h⟩

/-! ### SETUP, REARM and DIR (rules R117, R139, R141). -/

theorem exec_setup_fault {a : Axis} {sp dp : Pin} {speed : Word} {s : State}
    (h : numFinite speed = false ∨ pinsOk s a sp dp = false ∨ legalHalfPeriod s.config a speed = none) :
    exec (.setup a sp dp 0#16 speed) s = .fault (.operand s.ports) := by
  refine exec_of_illegal_operand rfl ?_
  rcases h with h | h | h <;> simp [operandOk, h]

theorem exec_setup {a : Axis} {sp dp : Pin} {speed : Word} {s : State} {hp : Nat} (hfinite : numFinite speed = true)
    (hpins : pinsOk s a sp dp = true) (hperiod : legalHalfPeriod s.config a speed = some hp) :
    exec (.setup a sp dp 0#16 speed) s = .next (drawResult (s.setAxis a (configureAxis (s.axis a) sp dp hp))) :=
  execSetup_eq_next.mpr ⟨rfl, hfinite, hpins, hp, hperiod, rfl⟩

/-- Settles O21: SETUP's faults are the first two preconditions, and its effect is one write of the axis' record. -/
theorem setupConfiguresTheAxis : Obligations.SetupConfiguresTheAxis := by
  refine fun a sp dp rsv speed s => ⟨fun hrsv => ?_, fun hrsv h => ?_, fun hp hrsv hfinite hpins hdefined hle hge => ?_⟩
  · exact exec_of_not_wellFormed (beq_false_of_ne hrsv)
  · subst hrsv
    exact exec_setup_fault (h.imp_right (Or.imp_right legalHalfPeriod_eq_none))
  · subst hrsv
    have h := exec_setup hfinite hpins (legalHalfPeriod_eq_some_iff.mpr ⟨hdefined, hle, hge⟩)
    obtain ⟨hother, hfilter, henv, hfree⟩ := exec_frame rfl h
    exact ⟨_, h, by simp [configureAxis], hother, sameLines_of_out_ev (by simp) (by simp), hfilter, henv, hfree⟩

/-- Settles O30: REARM is one write of the sub-state. -/
theorem rearmReturnsToIdle : Obligations.RearmReturnsToIdle := by
  refine ⟨fun a s hconf => exec_of_unconfigured rfl rfl hconf, fun a s hconf => ?_⟩
  have h : exec (.rearm a) s = .next _ := execRearm_eq_next.mpr ⟨hconf, rfl⟩
  obtain ⟨hother, hfilter, henv, hfree⟩ := exec_frame rfl h
  exact ⟨_, h, by simp, hother, sameLines_of_out_ev (by simp) (by simp), hfilter, henv, hfree⟩

/-- Settles O31: DIR is one write of the direction line. -/
theorem dirDrivesTheDirectionLine : Obligations.DirDrivesTheDirectionLine := by
  refine ⟨fun a level rsv s hrsv => exec_of_not_wellFormed (beq_false_of_ne hrsv),
    fun a level s hconf => exec_of_unconfigured rfl rfl hconf, fun a level s hconf => ?_⟩
  have h : exec (.dir a level 0#31) s = .next _ := execDir_eq_next.mpr ⟨rfl, hconf, rfl⟩
  obtain ⟨-, hfilter, henv, hfree⟩ := exec_frame rfl h
  exact ⟨_, h, wroteLine_of_out_ev rfl rfl, by simp, hfilter, henv, hfree⟩

/-! ### ADVANCE, by sub-state (rules R122 to R128). -/

section
variable {a : Axis} {r : Word} {now : Nat} {s : State}

theorem exec_advance (hconf : (s.axis a).configured = true) (hr : numFinite r = true)
    (hfits : targetOf s.config a r ≤ 2 ^ 31 - 1) :
    exec (.advance a r) s = .next (drawResult (advanceAxis a r (readUsec s) s)) :=
  execAdvance_eq_next.mpr ⟨hr, decide_eq_true hfits, hconf, rfl⟩

theorem exec_advance_unconfigured (hconf : (s.axis a).configured = false) (hr : numFinite r = true)
    (hfits : targetOf s.config a r ≤ 2 ^ 31 - 1) : exec (.advance a r) s = .fault (.unconfigured s.ports) := by
  have hfits' : targetFits s.config a r = true := decide_eq_true hfits
  exact exec_of_unconfigured rfl (by simp [operandOk, hr, hfits']) hconf

/-- A target above its register's range is an illegal operand in every state (rule R115). -/
theorem exec_advance_overRange (h : 2 ^ 31 - 1 < targetOf s.config a r) :
    exec (.advance a r) s = .fault (.operand s.ports) := by
  have hfits : targetFits s.config a r = false := decide_eq_false h.not_ge
  exact exec_of_illegal_operand rfl (by simp [operandOk, hfits])

theorem isCommand_iff {c : Config} : isCommand c a r = true ↔ numVal r ≠ 0 ∧ 0 < targetOf c a r := by
  simp [isCommand, numIsZero_eq_false_iff]

theorem advanceAxis_idle_command (hsub : (s.axis a).sub = .idle) (h : isCommand s.config a r = true) :
    advanceAxis a r now s = acceptCommand a (targetOf s.config a r) now s := by simp [advanceAxis, hsub, h]

theorem advanceAxis_idle_noCommand (hsub : (s.axis a).sub = .idle) (h : isCommand s.config a r = false) :
    advanceAxis a r now s = s := by simp [advanceAxis, hsub, h]

theorem advanceAxis_not_due (hsub : (s.axis a).sub = .pulseHigh ∨ (s.axis a).sub = .pulseLow)
    (htime : timeTest s a now = false) : advanceAxis a r now s = s := by
  rcases hsub with hsub | hsub <;> simp [advanceAxis, hsub, highEdgeIfDue, lowEdgeIfDue, htime]

theorem advanceAxis_highEdge (hsub : (s.axis a).sub = .pulseHigh) (htime : timeTest s a now = true) :
    advanceAxis a r now s =
      (writeLine (s.axis a).stepPin .high (some now) s).setAxis a
        { s.axis a with lastTime := now, timeHeld := true, sub := .pulseLow } := by
  simp [advanceAxis, hsub, highEdgeIfDue, htime]

theorem advanceAxis_lowEdge (hsub : (s.axis a).sub = .pulseLow) (htime : timeTest s a now = true) :
    advanceAxis a r now s =
      (writeLine (s.axis a).stepPin .low (some now) s).setAxis a
        { s.axis a with
          lastTime := now, timeHeld := true, issued := (s.axis a).issued + 1#32,
          sub := if commandComplete ((s.axis a).issued + 1#32) (s.axis a).target then .done else .pulseHigh } := by
  simp [advanceAxis, hsub, lowEdgeIfDue, htime]

theorem advanceAxis_done (hsub : (s.axis a).sub = .done) :
    advanceAxis a r now s = s.setAxis a { s.axis a with sub := .idle } := by simp [advanceAxis, hsub]

theorem advanceAxis_of_busy (hsub : (s.axis a).sub ≠ .idle) (r' : Word) :
    advanceAxis a r now s = advanceAxis a r' now s := by
  unfold advanceAxis
  cases h : (s.axis a).sub with
  | idle => exact absurd h hsub
  | pulseHigh | pulseLow | done => rfl

/-- Lines and history after ADVANCE: an edge on the step line, of an axis in PulseHigh or PulseLow whose time has come
and is recorded, or nothing. -/
theorem exec_advance_lines {t : State} (h : exec (.advance a r) s = .next t) :
    SameLines s t ∨
      ((s.axis a).sub = .pulseHigh ∨ (s.axis a).sub = .pulseLow) ∧ timeTest s a (readUsec s) = true ∧
        (t.axis a).lastTime = readUsec s ∧
        ∃ level, WroteLine (s.axis a).stepPin level (some (readUsec s)) s t := by
  obtain ⟨-, -, -, rfl⟩ := execAdvance_eq_next.mp h
  rcases advanceAxis_cases a r (readUsec s) s with
    ⟨-, -, e⟩ | ⟨-, -, e⟩ | ⟨-, -, e⟩ | ⟨hsub, htime, e⟩ | ⟨hsub, htime, e⟩ | ⟨-, e⟩ <;> rw [e]
  · exact .inl (sameLines_of_out_ev (by simp [acceptCommand]) (by simp [acceptCommand]))
  · exact .inl (sameLines_of_out_ev rfl rfl)
  · exact .inl (sameLines_of_out_ev rfl rfl)
  · exact .inr ⟨.inl hsub, htime, by simp, _, wroteLine_of_out_ev (out_setAxis _ _ _) (ev_setAxis _ _ _)⟩
  · exact .inr ⟨.inr hsub, htime, by simp, _, wroteLine_of_out_ev (out_setAxis _ _ _) (ev_setAxis _ _ _)⟩
  · exact .inl (sameLines_of_out_ev (by simp) (by simp))

end

/-- FREERUN's one write is its toggle, which is due and records its time. -/
theorem exec_freerun_of_event {a : Axis} {s t : State} (h : exec (.freerun a) s = .next t) (hev : t.ev ≠ s.ev) :
    timeTest s a (readUsec s) = true ∧ (t.axis a).lastTime = readUsec s := by
  obtain ⟨-, -, rfl⟩ := execFreerun_eq_next.mp h
  rcases freerunAxis_cases a (readUsec s) s with ⟨-, e⟩ | ⟨-, htime, e⟩ | ⟨-, -, e⟩ <;> rw [e] at hev ⊢
  · exact absurd (ev_setAxis _ _ _) hev
  · exact ⟨htime, by simp [toggleStepLine]⟩
  · exact absurd rfl hev

/-- An edge of the step line is due and records its time, whichever operation makes it. -/
theorem exec_of_event {a : Axis} {i : Instr} {s t : State} (hi : drivesStepLine a i) (h : exec i s = .next t)
    (hev : t.ev ≠ s.ev) : timeTest s a (readUsec s) = true ∧ (t.axis a).lastTime = readUsec s := by
  cases i with
  | advance b r =>
    obtain rfl : b = a := hi
    rcases exec_advance_lines h with ⟨-, hsame⟩ | ⟨-, htime, hlast, -⟩
    · exact absurd hsame hev
    · exact ⟨htime, hlast⟩
  | freerun b =>
    obtain rfl : b = a := hi
    exact exec_freerun_of_event h hev
  | setup | rearm | dir | sample | reserved | sampleAxisBit => exact hi.elim

/-- Where `lastTime` is the reading of a true time, the time test passes a half-period after it or later: modulo the
counter's range wherever true time stands, and in true time if it has gone on (rules R112, R113). -/
theorem halfPeriod_le_of_timeTest {u : State} {a : Axis} {time : Nat}
    (hlast : (u.axis a).lastTime = time % 2 ^ u.config.tw) (h : timeTest u a (readUsec u) = true) :
    ((u.axis a).halfPeriod : ℤ) ≤ ((u.time : ℤ) - (time : ℤ)) % ((2 ^ u.config.tw : ℕ) : ℤ) ∧
      (time ≤ u.time → time + (u.axis a).halfPeriod ≤ u.time) := by
  have hmod := timeTest_readUsec_iff.mp h
  rw [hlast, Int.natCast_mod, Int.sub_emod_emod] at hmod
  refine ⟨hmod, fun hle => ?_⟩
  rw [← Nat.cast_sub hle, ← Int.natCast_mod, Int.ofNat_le] at hmod
  have hexact := hmod.trans (Nat.mod_le _ _)
  omega

/-- Settles O22: `AcceptCommand` is one write of the record, and any later edge passes the time test against its time. -/
theorem advanceAcceptsACommand : Obligations.AdvanceAcceptsACommand := by
  intro a r s hconf hsub hr hval hpos hfits
  have h := exec_advance hconf hr hfits
  rw [advanceAxis_idle_command hsub (isCommand_iff.mpr ⟨hval, hpos⟩)] at h
  obtain ⟨hother, hfilter, henv, hfree⟩ := exec_frame rfl h
  refine ⟨_, h, ?_, by simp [acceptCommand, readUsec], hother,
    sameLines_of_out_ev (by simp [acceptCommand]) (by simp [acceptCommand]), hfilter, henv, hfree, ?_⟩
  · simp only [acceptCommand, axis_drawResult, axis_setAxis_same, BitVec.toNat_ofNat]
    omega
  · intro u v w haxis hconfig hv hev
    have hlast : (u.axis a).lastTime = s.time % 2 ^ u.config.tw := by
      rw [haxis, hconfig]
      simp [acceptCommand, readUsec]
    have hedge := halfPeriod_le_of_timeTest hlast (exec_of_event (i := .advance a w) rfl hv hev).1
    rw [haxis, hconfig] at hedge
    simpa [acceptCommand] using hedge

/-- Settles O23: without a command ADVANCE answers the state it found, `Q` aside. -/
theorem advanceWithoutACommandWritesNothing : Obligations.AdvanceWithoutACommandWritesNothing := by
  intro a r s hconf hsub hr hno
  have hle : targetOf s.config a r ≤ 0 := hno.elim (fun h => (targetOf_of_zero h _ _).le) id
  have hcommand : isCommand s.config a r = false := by
    rw [← Bool.not_eq_true, isCommand_iff]
    exact fun h => hle.not_gt h.2
  have h := exec_advance hconf hr (hle.trans (by norm_num))
  rw [advanceAxis_idle_noCommand hsub hcommand] at h
  obtain ⟨-, hfilter, henv, hfree⟩ := exec_frame rfl h
  exact ⟨_, h, axis_drawResult s, sameLines_of_out_ev rfl rfl, hfilter, henv, hfree⟩

/-- Settles O24: the time test decides between the edge and nothing. -/
theorem advanceMakesTheHighEdge : Obligations.AdvanceMakesTheHighEdge := by
  intro a r s hconf hsub hr hfits
  have h := exec_advance hconf hr hfits
  obtain ⟨hother, hfilter, henv, hfree⟩ := exec_frame rfl h
  refine ⟨_, h, hother, hfilter, henv, hfree, fun hdue => ?_, fun hearly => ?_⟩
  · rw [advanceAxis_highEdge hsub (timeTest_readUsec_iff.mpr hdue)]
    exact ⟨wroteLine_of_out_ev (out_setAxis _ _ _) (ev_setAxis _ _ _), by simp [readUsec]⟩
  · rw [advanceAxis_not_due (.inl hsub) (timeTest_readUsec_eq_false_iff.mpr hearly)]
    exact ⟨sameLines_of_out_ev rfl rfl, axis_drawResult s a⟩

/-- Settles O25: the time test decides between the edge and nothing; Done is the completion test of the new count. -/
theorem advanceMakesTheLowEdge : Obligations.AdvanceMakesTheLowEdge := by
  intro a r s hconf hsub hr hfits
  have h := exec_advance hconf hr hfits
  obtain ⟨hother, hfilter, henv, hfree⟩ := exec_frame rfl h
  refine ⟨_, h, hother, hfilter, henv, hfree, fun hdue => ?_, fun hearly => ?_⟩
  · rw [advanceAxis_lowEdge hsub (timeTest_readUsec_iff.mpr hdue)]
    exact ⟨wroteLine_of_out_ev (out_setAxis _ _ _) (ev_setAxis _ _ _), by simp [readUsec, commandComplete]⟩
  · rw [advanceAxis_not_due (.inr hsub) (timeTest_readUsec_eq_false_iff.mpr hearly)]
    exact ⟨sameLines_of_out_ev rfl rfl, axis_drawResult s a⟩

/-- Settles O26: ADVANCE in Done is one write of the sub-state. -/
theorem advanceSelfResetsFromDone : Obligations.AdvanceSelfResetsFromDone := by
  intro a r s hconf hsub hr hfits
  have h := exec_advance hconf hr hfits
  rw [advanceAxis_done hsub] at h
  obtain ⟨hother, hfilter, henv, hfree⟩ := exec_frame rfl h
  exact ⟨_, h, by simp, hother, sameLines_of_out_ev (by simp) (by simp), hfilter, henv, hfree⟩

/-- Settles O27: only the Idle branch of ADVANCE reads its operand. -/
theorem busyAxisIgnoresRevolutions : Obligations.BusyAxisIgnoresRevolutions := by
  intro a r r' s hsub hr hfits hr' hfits'
  cases hconf : (s.axis a).configured with
  | false =>
    rw [exec_advance_unconfigured hconf hr hfits, exec_advance_unconfigured hconf hr' hfits']
  | true => rw [exec_advance hconf hr hfits, exec_advance hconf hr' hfits', advanceAxis_of_busy hsub r']

/-- Settles O28: a low edge finds the count below a target of at most `2^31 - 1`. -/
theorem targetsFitAndCountersNeverWrap : Obligations.TargetsFitAndCountersNeverWrap := by
  refine ⟨fun a r s _ h => exec_advance_overRange h, fun a r s t hs h hsub htime => ?_⟩
  obtain ⟨-, -, hconf, rfl⟩ := execAdvance_eq_next.mp h
  have hbelow : (s.axis a).issued.toNat < (s.axis a).target.toNat :=
    ((hs.axisInv a).pulse_some hconf (.inr hsub)).1
  have hissued : ((s.axis a).issued + 1#32).toNat = (s.axis a).issued.toNat + 1 :=
    BitVec.toNat_add_of_lt (by simp; omega)
  rw [advanceAxis_lowEdge hsub htime]
  rw [axis_drawResult, axis_setAxis_same]
  exact ⟨hissued, hissued.trans_le hbelow⟩

/-- Settles O29: ADVANCE keeps the configuration and its frame, and its one write is an edge of PulseHigh or PulseLow. -/
theorem advanceNeverDoes : Obligations.AdvanceNeverDoes := by
  intro a r s t h
  obtain ⟨hstep, hdir, hperiod, hconf⟩ := exec_sameConfiguration (a := a) h (by simp)
  obtain ⟨hother, hfilter, henv, -⟩ := exec_frame rfl h
  refine ⟨hstep, hdir, hperiod, hconf, hother, hfilter, henv, ?_⟩
  rcases exec_advance_lines h with ⟨hline, hev⟩ | ⟨hsub, -, -, level, -, hline, hev⟩
  · exact ⟨fun p _ => hline p, .inl hev, fun _ => ⟨hline, hev⟩⟩
  · refine ⟨hline, .inr ⟨_, rfl, hev⟩, fun hquiet => ?_⟩
    rcases hsub with hsub | hsub <;> simp [hsub] at hquiet

/-! ### The edges of the sub-state (rule R130). -/

/-- Along the edges of ADVANCE: the five moving ones, each with its condition, or none. -/
theorem exec_advance_subState {a : Axis} {r : Word} {s t : State} (h : exec (.advance a r) s = .next t) :
    (t.axis a).sub = (s.axis a).sub ∨
    (((s.axis a).sub = .idle ∧ (t.axis a).sub = .pulseHigh ∧ numVal r ≠ 0 ∧ 0 < targetOf s.config a r) ∨
     ((s.axis a).sub = .pulseHigh ∧ (t.axis a).sub = .pulseLow ∧ timeTest s a (readUsec s) = true) ∨
     ((s.axis a).sub = .pulseLow ∧ (t.axis a).sub = .pulseHigh ∧ timeTest s a (readUsec s) = true ∧
        (t.axis a).issued.toNat < (t.axis a).target.toNat) ∨
     ((s.axis a).sub = .pulseLow ∧ (t.axis a).sub = .done ∧ timeTest s a (readUsec s) = true ∧
        (t.axis a).target.toNat ≤ (t.axis a).issued.toNat) ∨
     ((s.axis a).sub = .done ∧ (t.axis a).sub = .idle)) := by
  obtain ⟨-, -, -, rfl⟩ := execAdvance_eq_next.mp h
  rcases advanceAxis_cases a r (readUsec s) s with
    ⟨hsub, hcommand, e⟩ | ⟨-, -, e⟩ | ⟨-, -, e⟩ | ⟨hsub, htime, e⟩ | ⟨hsub, htime, e⟩ | ⟨hsub, e⟩ <;>
    rw [axis_drawResult, e]
  · rw [acceptCommand, axis_setAxis_same]
    exact .inr (.inl ⟨hsub, rfl, isCommand_iff.mp hcommand⟩)
  · exact .inl rfl
  · exact .inl rfl
  · rw [axis_setAxis_same]
    exact .inr (.inr (.inl ⟨hsub, rfl, htime⟩))
  · rw [axis_setAxis_same]
    cases hfull : commandComplete ((s.axis a).issued + 1#32) (s.axis a).target with
    | false => exact .inr (.inr (.inr (.inl ⟨hsub, rfl, htime, not_le.mp (of_decide_eq_false hfull)⟩)))
    | true => exact .inr (.inr (.inr (.inr (.inl ⟨hsub, rfl, htime, of_decide_eq_true hfull⟩))))
  · rw [axis_setAxis_same]
    exact .inr (.inr (.inr (.inr (.inr ⟨hsub, rfl⟩))))

/-- Settles O44: SETUP and REARM write Idle, ADVANCE goes along its edges, and no other operation, and none on the
other axis, writes the sub-state. -/
theorem subStateEdges : Obligations.SubStateEdges := by
  intro i a s t h _
  by_cases ha : axisOf i = some a
  · cases i with
    | setup b sp dp rsv speed =>
      cases ha
      obtain ⟨-, -, -, hp, -, rfl⟩ := execSetup_eq_next.mp h
      exact .inr (.inl ⟨⟨sp, dp, rsv, speed, rfl⟩, by simp [configureAxis]⟩)
    | advance b r =>
      cases ha
      exact (exec_advance_subState h).imp_right fun hedge => .inr (.inr ⟨r, rfl, hedge⟩)
    | rearm b =>
      cases ha
      obtain ⟨-, rfl⟩ := execRearm_eq_next.mp h
      exact .inr (.inr (.inl ⟨rfl, by simp⟩))
    | dir b level rsv =>
      obtain ⟨-, -, rfl⟩ := execDir_eq_next.mp h
      exact .inl (by simp)
    | freerun b =>
      cases ha
      obtain ⟨-, -, rfl⟩ := execFreerun_eq_next.mp h
      rcases freerunAxis_cases a (readUsec s) s with ⟨-, e⟩ | ⟨-, -, e⟩ | ⟨-, -, e⟩ <;>
        exact .inl (by simp [e, toggleStepLine])
    | sample operand => cases ha
    | reserved x b => exact absurd h (raise_ne_next _ _ _)
    | sampleAxisBit => cases ha
  · exact .inl (by rw [exec_axis_of_not_addressed ha h])

end Sys2Proof.Machine
end

section
/-! PROOFS. Runs: two edges of a step line are a half-period apart, and a command makes its pulses, takes its time and
completes (rules R131 to R134 of spec/40_motor_driver.md). -/

namespace Sys2Proof.Machine

/-! ### The inputs to come: a step consumes the first and adds none (log 1). -/

theorem hostPresent_inbox {i : Instr} {s t : State} (h : hostPresent i s = .next t) : t.inbox = s.inbox :=
  (exec_sameEnvironment (hostPresent_eq_next.mp h)).inbox

theorem leaveReturn_inbox {s t : State} (h : leaveReturn s = .next t) : t.inbox = s.inbox := by
  simp only [leaveReturn, driveDirY, setupY, andThen_eq_next] at h
  obtain ⟨s1, h1, s2, h2, s3, h3, h4⟩ := h
  cases h4
  exact (hostPresent_inbox h3).trans ((hostPresent_inbox h2).trans (hostPresent_inbox h1 :))

theorem overTravel_inbox {s t : State} (h : overTravel s = .next t) : t.inbox = s.inbox := by
  simp only [overTravel, driveDirY, setupY, andThen_eq_next] at h
  obtain ⟨s1, h1, s2, h2, h3⟩ := h
  cases h3
  exact (hostPresent_inbox h2).trans (hostPresent_inbox h1 :)

theorem completeLayer_inbox {s t : State} (h : completeLayer s = .next t) : t.inbox = s.inbox := by
  obtain ⟨s1, h1, h2⟩ := andThen_eq_next.mp h
  cases h2
  exact (hostPresent_inbox h1 :)

theorem sampleSlice_inbox {s t : State} (h : sampleSlice s = .next t) : t.inbox = s.inbox := by
  obtain ⟨s1, h1, h2⟩ := andThen_eq_next.mp h
  have hemit : (emitReading (numValue s1.q) s1).inbox = s1.inbox := by
    unfold emitReading
    split <;> rfl
  exact (hostPresent_inbox h2).trans (hemit.trans (hostPresent_inbox h1))

theorem wrapSlices_inbox {s t : State} (h : wrapSlices s = .next t) : t.inbox = s.inbox := by
  obtain ⟨s1, h1, h2⟩ := andThen_eq_next.mp h
  cases h2
  exact (hostPresent_inbox h1 :)

theorem guardedAdvance_inbox {a : Axis} {r : Word} {s t : State} {f : State → Result}
    (hf : ∀ u v, f u = .next v → v.inbox = u.inbox) (h : guardedAdvance a r s f = .next t) : t.inbox = s.inbox := by
  obtain ⟨-, h⟩ := withStatus_eq_next.mp h
  obtain ⟨s1, h1, h⟩ := andThen_eq_next.mp h
  obtain ⟨-, h⟩ := withStatus_eq_next.mp h
  split at h
  · exact (hf _ _ h).trans (hostPresent_inbox h1)
  · cases h
    exact hostPresent_inbox h1

theorem hostTick_inbox {s t : State} (h : hostTick s = .next t) : t.inbox = s.inbox := by
  unfold hostTick tickReturn tickLinear tickRotate at h
  split at h
  · split at h
    · exact leaveReturn_inbox h
    · exact hostPresent_inbox h
  · split at h
    · exact overTravel_inbox h
    · exact guardedAdvance_inbox (fun _ _ => completeLayer_inbox) h
  · split at h
    · exact guardedAdvance_inbox (fun _ _ => sampleSlice_inbox) h
    · exact wrapSlices_inbox h

theorem presentBoot_inbox {s t : State} (h : presentBoot s = .next t) : t.inbox = s.inbox := by
  simp only [presentBoot, driveDirY, setupY, setupZ, andThen_eq_next] at h
  obtain ⟨s1, h1, s2, h2, s3, h3, h4⟩ := h
  cases h4
  exact (hostPresent_inbox h3).trans ((hostPresent_inbox h2).trans (hostPresent_inbox h1 :))

theorem perform_inbox {i : Input} {s t : State} (h : perform i s = .next t) : t.inbox = s.inbox := by
  cases i with
  | present p => exact (exec_sameEnvironment h).inbox
  | boot =>
    simp only [perform, hostBoot] at h
    split at h
    · cases h
      rfl
    · exact presentBoot_inbox h
  | tick => exact hostTick_inbox h
  | rpmSetup =>
    simp only [perform, setupForRpm] at h
    split at h
    · cases h
      rfl
    · exact hostPresent_inbox h
  | elapse | waitUntil | limits | adc | setRadius | setRpm | powerCycle =>
    cases h
    rfl

theorem step_inbox {s t : State} (h : step s = .next t) : t.inbox = s.inbox.tail := by
  simp only [step, performNext] at h
  split at h
  next hin =>
    cases h
    rw [hin, List.tail_nil]
  next i rest hin => rw [perform_inbox h, hin, List.tail_cons]

/-- What every step of a machine keeps, every run keeps. -/
theorem run_keeps {M : Host.Core} {P : M.State → Prop} (hstep : ∀ s t, P s → M.step s = .next t → P t) {k : Nat}
    {s u : M.State} (hs : P s) (h : M.run k s = .next u) : P u := by
  induction k generalizing s with
  | zero =>
    cases h
    exact hs
  | succ k ih =>
    rw [Host.Core.run] at h
    split at h
    next s' hs' => exact ih (hstep s s' hs hs') h
    next => cases h
    next => cases h

/-- No input to come is a power cycle. -/
def NoPowerCycle (s : State) : Prop := ∀ x ∈ s.inbox, isPowerCycle x = false

theorem step_noPowerCycle {s t : State} (hs : NoPowerCycle s) (h : step s = .next t) : NoPowerCycle t :=
  fun x hx => hs x (List.mem_of_mem_tail (step_inbox h ▸ hx))

/-- A relation that operations and changes outside the block meet keeps a property along a run without a power cycle. -/
theorem Closed.run {P : State → Prop} (hP : Closed fun s t => P s → P t) {k : Nat} {s u : State}
    (hpower : NoPowerCycle s) (hs : P s) (h : Host.Core.run Sys2Proof.core k s = .next u) : P u := by
  have hstep (s t : State) (hs : NoPowerCycle s ∧ P s) (hst : Machine.step s = .next t) : NoPowerCycle t ∧ P t :=
    ⟨step_noPowerCycle hs.1 hst, hP.step (fun i _ hin => hs.1 i (by simp [hin])) hst hs.2⟩
  exact (run_keeps (M := Sys2Proof.core) hstep ⟨hpower, hs⟩ h).2

/-! ### When the last edge was (rules R112, R132). -/

/-- `lastTime` is the reading of a true time that is past and not before `t0`. -/
def LastTimeSince (a : Axis) (t0 : Nat) (s : State) : Prop :=
  ∃ time, t0 ≤ time ∧ time ≤ s.time ∧ (s.axis a).lastTime = time % 2 ^ s.config.tw

/-- An edge due now is a half-period or more after the one before, whatever the counter has wrapped. -/
theorem LastTimeSince.add_halfPeriod_le {a : Axis} {t0 : Nat} {s : State} (h : LastTimeSince a t0 s)
    (htime : timeTest s a (readUsec s) = true) : t0 + (s.axis a).halfPeriod ≤ s.time := by
  obtain ⟨time, hle, hpast, hlast⟩ := h
  have := (halfPeriod_le_of_timeTest hlast htime).2 hpast
  omega

/-- Writing the time read is writing a time not before any past one. -/
theorem lastTimeSince_of_now {a : Axis} {t0 : Nat} {s t : State} (henv : SameEnvironment s t)
    (hlast : (t.axis a).lastTime = readUsec s) (ht0 : t0 ≤ s.time) : LastTimeSince a t0 t :=
  ⟨s.time, ht0, henv.time.ge, by rw [hlast, readUsec, henv.config]⟩

theorem exec_advance_lastTime {a : Axis} {r : Word} {s t : State} (h : exec (.advance a r) s = .next t) :
    (t.axis a).lastTime = (s.axis a).lastTime ∨ (t.axis a).lastTime = readUsec s := by
  obtain ⟨-, -, -, rfl⟩ := execAdvance_eq_next.mp h
  rcases advanceAxis_cases a r (readUsec s) s with
    ⟨-, -, e⟩ | ⟨-, -, e⟩ | ⟨-, -, e⟩ | ⟨-, -, e⟩ | ⟨-, -, e⟩ | ⟨-, e⟩ <;> rw [axis_drawResult, e]
  · exact .inr (by simp [acceptCommand])
  · exact .inl rfl
  · exact .inl rfl
  · exact .inr (by simp)
  · exact .inr (by simp)
  · exact .inl (by simp)

theorem exec_freerun_lastTime {a : Axis} {s t : State} (h : exec (.freerun a) s = .next t) :
    (t.axis a).lastTime = (s.axis a).lastTime ∨ (t.axis a).lastTime = readUsec s := by
  obtain ⟨-, -, rfl⟩ := execFreerun_eq_next.mp h
  rcases freerunAxis_cases a (readUsec s) s with ⟨-, e⟩ | ⟨-, -, e⟩ | ⟨-, -, e⟩ <;> rw [axis_drawResult, e]
  · exact .inr (by simp)
  · exact .inr (by simp [toggleStepLine])
  · exact .inl rfl

/-- An operation leaves an axis' `lastTime` or writes the time it reads (rules R120, R124 to R127, R150, R151). -/
theorem exec_lastTime {i : Instr} {s t : State} (a : Axis) (h : exec i s = .next t) :
    (t.axis a).lastTime = (s.axis a).lastTime ∨ (t.axis a).lastTime = readUsec s := by
  by_cases ha : axisOf i = some a
  · cases i with
    | setup b sp dp rsv speed =>
      cases ha
      obtain ⟨-, -, -, hp, -, rfl⟩ := execSetup_eq_next.mp h
      exact .inl (by simp [configureAxis])
    | advance b r =>
      cases ha
      exact exec_advance_lastTime h
    | rearm b =>
      cases ha
      obtain ⟨-, rfl⟩ := execRearm_eq_next.mp h
      exact .inl (by simp)
    | dir b level rsv =>
      obtain ⟨-, -, rfl⟩ := execDir_eq_next.mp h
      exact .inl (by simp)
    | freerun b =>
      cases ha
      exact exec_freerun_lastTime h
    | sample operand => cases ha
    | reserved x b => exact absurd h (raise_ne_next _ _ _)
    | sampleAxisBit => cases ha
  · exact .inl (by rw [exec_axis_of_not_addressed ha h])

/-- Nothing but a power cycle puts `lastTime` back. -/
theorem lastTimeSince_closed (a : Axis) (t0 : Nat) : Closed fun s t => LastTimeSince a t0 s → LastTimeSince a t0 t where
  trans h1 h2 := h2 ∘ h1
  exec := fun {i s t} h ⟨time, hle, hpast, hlast⟩ => by
    have henv := exec_sameEnvironment h
    rcases exec_lastTime a h with hkept | hnow
    · exact ⟨time, hle, henv.time ▸ hpast, by rw [hkept, hlast, henv.config]⟩
    · exact lastTimeSince_of_now henv hnow (hle.trans hpast)
  same h := fun ⟨time, hle, hpast, hlast⟩ => ⟨time, hle, hpast.trans h.time_le, by rw [h.axis, hlast, h.config]⟩

/-- Settles O50: the first edge records its time, no step puts that back, and the second passes the time test against
it. -/
theorem edgesAreAHalfPeriodApart : Obligations.EdgesAreAHalfPeriodApart := by
  intro a i j s t u v k hi hs hsev hpower hrun hj hu huev
  have hfirst : LastTimeSince a s.time t :=
    lastTimeSince_of_now (exec_sameEnvironment hs) (exec_of_event hi hs hsev).2 le_rfl
  have hsecond : LastTimeSince a s.time u := (lastTimeSince_closed a s.time).run hpower hfirst hrun
  exact hsecond.add_halfPeriod_le (exec_of_event hj hu huev).1

/-! ### A command, an edge at a time (rules R126, R127, R131). -/

/-- The sub-state of a command of `target` pulses of which `n` edges have been made. -/
def commandSub (target n : Nat) : SubState :=
  if n = 2 * target then .done else if n % 2 = 0 then .pulseHigh else .pulseLow

theorem commandSub_eq_done_iff {target n : Nat} : commandSub target n = .done ↔ n = 2 * target := by
  unfold commandSub
  split
  case isTrue h => simp [h]
  case isFalse h => split <;> simp [h]

theorem commandSub_of_ne {target n : Nat} (h : n ≠ 2 * target) :
    commandSub target n = if n % 2 = 0 then .pulseHigh else .pulseLow := if_neg h

/-- The record of a configured axis with a command of which `n` edges have been made. -/
structure CommandAt (m : MotorAxis) (n : Nat) : Prop where
  configured : m.configured = true
  target_fits : m.target.toNat ≤ 2 ^ 31 - 1
  edges_le : n ≤ 2 * m.target.toNat
  issued : m.issued = BitVec.ofNat 32 (n / 2)
  sub : m.sub = commandSub m.target.toNat n

/-- The level of the edge after `n` others: HIGH first, then in turn. -/
def edgeLevel (n : Nat) : Level := if n % 2 = 0 then .high else .low

theorem pulseLevels_succ (n : Nat) : pulseLevels (n + 1) = pulseLevels n ++ [edgeLevel n] := by
  simp [pulseLevels, edgeLevel, List.range_succ]

/-- The record after one edge more, made at the reading `now`. -/
def edgeRecord (m : MotorAxis) (n now : Nat) : MotorAxis :=
  { m with
    lastTime := now, timeHeld := true, issued := BitVec.ofNat 32 ((n + 1) / 2),
    sub := commandSub m.target.toNat (n + 1) }

namespace CommandAt

variable {a : Axis} {n now : Nat} {r : Word} {s t : State} {m : MotorAxis}

/-- An accepted command has made no edge. -/
theorem accepted (hconf : m.configured = true) (hsub : m.sub = .pulseHigh) (hissued : m.issued = 0#32)
    (hpos : 0 < m.target.toNat) (hfits : m.target.toNat ≤ 2 ^ 31 - 1) : CommandAt m 0 where
  configured := hconf
  target_fits := hfits
  edges_le := Nat.zero_le _
  issued := hissued
  sub := by
    rw [commandSub_of_ne (by omega)]
    exact hsub

theorem edge (h : CommandAt m n) (hn : n < 2 * m.target.toNat) (now : Nat) :
    CommandAt (edgeRecord m n now) (n + 1) where
  configured := h.configured
  target_fits := h.target_fits
  edges_le := hn
  issued := rfl
  sub := rfl

theorem issued_toNat (h : CommandAt m n) : m.issued.toNat = n / 2 := by
  have := h.target_fits
  have := h.edges_le
  rw [h.issued, BitVec.toNat_ofNat]
  omega

theorem sub_done_iff (h : CommandAt m n) : m.sub = .done ↔ n = 2 * m.target.toNat := by
  rw [h.sub, commandSub_eq_done_iff]

theorem lt_of_not_done (h : CommandAt m n) (hsub : m.sub ≠ .done) : n < 2 * m.target.toNat :=
  lt_of_le_of_ne h.edges_le (mt h.sub_done_iff.mpr hsub)

theorem pulsing (h : CommandAt m n) (hn : n < 2 * m.target.toNat) :
    n % 2 = 0 ∧ m.sub = .pulseHigh ∨ n % 2 = 1 ∧ m.sub = .pulseLow := by
  rw [h.sub, commandSub_of_ne hn.ne]
  rcases Nat.mod_two_eq_zero_or_one n with hpar | hpar <;> simp [hpar]

/-- A due ADVANCE makes the next edge: HIGH leaves the count alone; LOW counts, and is Done at the last. -/
theorem advanceAxis_of_due (h : CommandAt (s.axis a) n) (hn : n < 2 * (s.axis a).target.toNat)
    (htime : timeTest s a now = true) :
    advanceAxis a r now s =
      (writeLine (s.axis a).stepPin (edgeLevel n) (some now) s).setAxis a (edgeRecord (s.axis a) n now) := by
  rcases h.pulsing hn with ⟨hpar, hsub⟩ | ⟨hpar, hsub⟩
  · have hissued : BitVec.ofNat 32 ((n + 1) / 2) = (s.axis a).issued := by
      rw [h.issued, show (n + 1) / 2 = n / 2 by omega]
    have hnext : commandSub (s.axis a).target.toNat (n + 1) = .pulseLow := by
      rw [commandSub_of_ne (by omega), if_neg (by omega)]
    rw [advanceAxis_highEdge hsub htime, edgeRecord, hissued, hnext, edgeLevel, if_pos hpar]
  · have hissued : (s.axis a).issued + 1#32 = BitVec.ofNat 32 ((n + 1) / 2) := by
      rw [h.issued, BitVec.ofNat_add_ofNat, show n / 2 + 1 = (n + 1) / 2 by omega]
    have hcount : ((s.axis a).issued + 1#32).toNat = (n + 1) / 2 := by
      have := h.target_fits
      rw [hissued, BitVec.toNat_ofNat]
      omega
    have hnext : (if commandComplete ((s.axis a).issued + 1#32) (s.axis a).target then SubState.done else .pulseHigh) =
        commandSub (s.axis a).target.toNat (n + 1) := by
      rw [commandComplete, hcount]
      by_cases hlast : n + 1 = 2 * (s.axis a).target.toNat
      · rw [commandSub_eq_done_iff.mpr hlast, decide_eq_true (by omega), if_pos rfl]
      · have hnot : ¬ (s.axis a).target.toNat ≤ (n + 1) / 2 := by omega
        rw [commandSub_of_ne hlast, decide_eq_false hnot, if_neg Bool.false_ne_true, if_pos (by omega)]
    rw [advanceAxis_lowEdge hsub htime, hnext, hissued, edgeRecord, edgeLevel, if_neg (by omega)]

theorem advanceAxis_of_not_due (h : CommandAt (s.axis a) n) (hn : n < 2 * (s.axis a).target.toNat)
    (htime : timeTest s a now = false) : advanceAxis a r now s = s :=
  advanceAxis_not_due ((h.pulsing hn).imp And.right And.right) htime

/-- An ADVANCE of a command that is not Done makes the next edge or none. -/
theorem exec_advance (h : CommandAt (s.axis a) n) (hn : n < 2 * (s.axis a).target.toNat)
    (ht : exec (.advance a r) s = .next t) :
    (t.ev = s.ev ∧ t.axis a = s.axis a) ∨
      timeTest s a (readUsec s) = true ∧ t.axis a = edgeRecord (s.axis a) n (readUsec s) ∧
        t.ev = s.ev ++ [{ pin := (s.axis a).stepPin, level := edgeLevel n, time := some (readUsec s) }] := by
  obtain ⟨-, -, -, rfl⟩ := execAdvance_eq_next.mp ht
  cases htime : timeTest s a (readUsec s) with
  | false =>
    rw [h.advanceAxis_of_not_due hn htime]
    exact .inl ⟨rfl, axis_drawResult s a⟩
  | true =>
    rw [h.advanceAxis_of_due hn htime]
    exact .inr ⟨rfl, by simp, by simp⟩

end CommandAt

/-- What holds at the start of a run of ticks, and is kept by each tick of an axis that is not Done, holds at the end;
`P j` is what holds after `j` ticks. -/
theorem runCommand_induction {P : Nat → State → Prop} {a : Axis}
    (htick : ∀ j s gap r t, P j s → (s.axis a).sub ≠ .done → exec (.advance a r) (elapseTime gap s) = .next t →
      P (j + 1) t)
    {ticks : List (Nat × Word)} {j : Nat} {s t : State} (hs : P j s) (h : runCommand a ticks s = .next t) :
    ∃ k ≤ j + ticks.length, P k t := by
  induction ticks generalizing j s with
  | nil =>
    cases h
    exact ⟨j, le_rfl, hs⟩
  | cons tick rest ih =>
    obtain ⟨gap, r⟩ := tick
    rw [runCommand] at h
    split at h
    next =>
      cases h
      exact ⟨j, Nat.le_add_right _ _, hs⟩
    next hsub =>
      obtain ⟨u, hu, ht⟩ := andThen_eq_next.mp h
      obtain ⟨k, hk, hP⟩ := ih (htick j s gap r u hs hsub hu) ht
      exact ⟨k, by rw [List.length_cons]; omega, hP⟩

/-- After `j` ticks from `s0`, the events are `edges` on the step line in turn, and as many have been made of the
command. -/
structure PulsesMade (a : Axis) (s0 : State) (edges : List Event) (j : Nat) (s : State) : Prop where
  ev : s.ev = s0.ev ++ edges
  pins : ∀ e ∈ edges, e.pin = (s0.axis a).stepPin
  levels : edges.map (·.level) = pulseLevels edges.length
  length_le : edges.length ≤ j
  command : CommandAt (s.axis a) edges.length
  stepPin : (s.axis a).stepPin = (s0.axis a).stepPin
  target : (s.axis a).target = (s0.axis a).target

theorem PulsesMade.tick {a : Axis} {s0 s t : State} {edges : List Event} {j gap : Nat} {r : Word}
    (h : PulsesMade a s0 edges j s) (hsub : (s.axis a).sub ≠ .done)
    (ht : exec (.advance a r) (elapseTime gap s) = .next t) : ∃ edges', PulsesMade a s0 edges' (j + 1) t := by
  have hn := h.command.lt_of_not_done hsub
  have hstep := CommandAt.exec_advance (s := elapseTime gap s) (by simpa using h.command) (by simpa using hn) ht
  simp only [axis_elapseTime, ev_elapseTime] at hstep
  rcases hstep with ⟨hev, haxis⟩ | ⟨-, haxis, hev⟩
  · refine ⟨edges, hev.trans h.ev, h.pins, h.levels, h.length_le.trans (Nat.le_succ j), ?_, ?_, ?_⟩ <;> rw [haxis]
    · exact h.command
    · exact h.stepPin
    · exact h.target
  · refine ⟨edges ++ [_], by rw [hev, h.ev, List.append_assoc], ?_, ?_, ?_, ?_, ?_, ?_⟩
    · intro e he
      rcases List.mem_append.mp he with he | he
      · exact h.pins e he
      · rw [List.mem_singleton.mp he]
        exact h.stepPin
    · simp [h.levels, pulseLevels_succ]
    · simpa using h.length_le
    · rw [haxis, List.length_append]
      exact h.command.edge hn _
    · rw [haxis]
      exact h.stepPin
    · rw [haxis]
      exact h.target

/-- Settles O51: every tick adds the next edge or none. -/
theorem commandMakesExactlyItsPulses : Obligations.CommandMakesExactlyItsPulses := by
  intro a ticks s t hconf hsub hissued hpos hfits hrun
  have hstart : PulsesMade a s [] 0 s :=
    ⟨by simp, by simp, rfl, le_rfl, .accepted hconf hsub hissued hpos hfits, rfl, rfl⟩
  obtain ⟨j, hj, edges, h⟩ :=
    runCommand_induction (P := fun j u => ∃ edges, PulsesMade a s edges j u)
      (fun j u gap r v ⟨_, hu⟩ hsub hv => hu.tick hsub hv) ⟨[], hstart⟩ hrun
  rw [Nat.zero_add] at hj
  refine ⟨edges, h.ev, h.pins, h.levels, h.length_le.trans hj, h.target, ?_, fun hsub => ?_, h.command.issued_toNat⟩
  · rw [← h.target]
    exact h.command.sub_done_iff
  · have hn := h.command.lt_of_not_done hsub
    exact ⟨(h.command.pulsing hn).imp And.right And.right, h.target ▸ hn⟩

/-- From true time `t0`, `n` edges of a command have taken `n` half-periods or more, to the last edge. -/
structure TimeTaken (a : Axis) (t0 : Nat) (m0 : MotorAxis) (n : Nat) (s : State) : Prop where
  command : CommandAt (s.axis a) n
  target : (s.axis a).target = m0.target
  halfPeriod : (s.axis a).halfPeriod = m0.halfPeriod
  since : LastTimeSince a (t0 + n * m0.halfPeriod) s

theorem TimeTaken.tick {a : Axis} {t0 n gap : Nat} {m0 : MotorAxis} {r : Word} {s t : State}
    (h : TimeTaken a t0 m0 n s) (hsub : (s.axis a).sub ≠ .done)
    (ht : exec (.advance a r) (elapseTime gap s) = .next t) : ∃ n', TimeTaken a t0 m0 n' t := by
  have hn := h.command.lt_of_not_done hsub
  have hsince : LastTimeSince a (t0 + n * m0.halfPeriod) (elapseTime gap s) :=
    (lastTimeSince_closed a _).same (by constructor <;> simp) h.since
  have hstep := CommandAt.exec_advance (s := elapseTime gap s) (by simpa using h.command) (by simpa using hn) ht
  rw [axis_elapseTime] at hstep
  rcases hstep with ⟨-, haxis⟩ | ⟨htime, haxis, -⟩
  · refine ⟨n, ?_, ?_, ?_, (lastTimeSince_closed a _).exec ht hsince⟩ <;> rw [haxis]
    · exact h.command
    · exact h.target
    · exact h.halfPeriod
  · have hlater := hsince.add_halfPeriod_le htime
    rw [axis_elapseTime, h.halfPeriod] at hlater
    refine ⟨n + 1, ?_, ?_, ?_, ?_⟩
    · rw [haxis]
      exact h.command.edge hn _
    · rw [haxis]
      exact h.target
    · rw [haxis]
      exact h.halfPeriod
    · refine lastTimeSince_of_now (exec_sameEnvironment ht) (by rw [haxis]; rfl) ?_
      rw [Nat.succ_mul]
      omega

/-- Settles O52: every edge comes a half-period or more after the one before, the first so after acceptance. -/
theorem commandTakesItsTime : Obligations.CommandTakesItsTime := by
  intro a ticks s t hconf hsub hissued hpos hfits hlast hrun hdone
  have hstart : TimeTaken a s.time (s.axis a) 0 s :=
    ⟨.accepted hconf hsub hissued hpos hfits, rfl, rfl, s.time, by simp, le_rfl, hlast⟩
  obtain ⟨-, -, n, h⟩ :=
    runCommand_induction (P := fun _ u => ∃ n, TimeTaken a s.time (s.axis a) n u) (j := 0)
      (fun _ u gap r v ⟨_, hu⟩ hsub hv => hu.tick hsub hv) ⟨0, hstart⟩ hrun
  obtain ⟨time, hle, hpast, -⟩ := h.since
  rw [← h.target, ← h.command.sub_done_iff.mp hdone]
  exact hle.trans hpast

/-! ### Ticks in time (rules R134, R239). -/

/-- A gap of a half-period or more, below the counter's range, passes the time test: it is read exactly. -/
theorem timeTest_of_timely {a : Axis} {gap : Nat} {s : State} (hlast : (s.axis a).lastTime = readUsec s)
    (hge : (s.axis a).halfPeriod ≤ gap) (hlt : gap < 2 ^ s.config.tw) :
    timeTest (elapseTime gap s) a (readUsec (elapseTime gap s)) = true := by
  have hgap : elapsed s.config.tw ((s.time + gap) % 2 ^ s.config.tw) (s.time % 2 ^ s.config.tw) = gap := by
    rw [elapsed_readings (Nat.le_add_right _ _), Nat.add_sub_cancel_left, Nat.mod_eq_of_lt hlt]
  simp only [timeTest, readUsec, axis_elapseTime, config_elapseTime, time_elapseTime, hlast, hgap, hge,
    decide_true]

/-- The tick is legal and in time for a command of the half-period given, under the parameters `c` (rule R134). -/
def TimelyTick (c : Config) (a : Axis) (halfPeriod : Nat) (x : Nat × Word) : Prop :=
  halfPeriod ≤ x.1 ∧ x.1 < 2 ^ c.tw ∧ numFinite x.2 = true ∧ targetOf c a x.2 ≤ 2 ^ 31 - 1

/-- A timely tick makes the next edge and leaves the time it read. -/
theorem CommandAt.timely_tick {a : Axis} {n gap : Nat} {r : Word} {s : State} (h : CommandAt (s.axis a) n)
    (hn : n < 2 * (s.axis a).target.toNat) (hlast : (s.axis a).lastTime = readUsec s)
    (htick : TimelyTick s.config a (s.axis a).halfPeriod (gap, r)) :
    ∃ t now, exec (.advance a r) (elapseTime gap s) = .next t ∧ t.axis a = edgeRecord (s.axis a) n now ∧
      (t.axis a).lastTime = readUsec t ∧ t.config = s.config := by
  obtain ⟨hge, hlt, hr, hfits⟩ := htick
  have htime := timeTest_of_timely hlast hge hlt
  have hnext := advanceAxis_of_due (s := elapseTime gap s) (r := r) (by simpa using h) (by simpa using hn) htime
  have hexec := Machine.exec_advance (s := elapseTime gap s) (by simpa using h.configured) hr hfits
  rw [hnext] at hexec
  refine ⟨_, readUsec (elapseTime gap s), hexec, by simp, ?_, by simp⟩
  simp [edgeRecord, readUsec]

/-- Timely ticks, as many as a command has edges left, complete it. -/
theorem CommandAt.runCommand_timely {a : Axis} {ticks : List (Nat × Word)} {n : Nat} {s : State}
    (h : CommandAt (s.axis a) n) (hlast : (s.axis a).lastTime = readUsec s)
    (hticks : ∀ x ∈ ticks, TimelyTick s.config a (s.axis a).halfPeriod x)
    (hlength : n + ticks.length = 2 * (s.axis a).target.toNat) :
    ∃ t, runCommand a ticks s = .next t ∧ CommandAt (t.axis a) (2 * (s.axis a).target.toNat) ∧
      (t.axis a).target = (s.axis a).target := by
  induction ticks generalizing n s with
  | nil => exact ⟨s, rfl, hlength ▸ h, rfl⟩
  | cons tick rest ih =>
    obtain ⟨gap, r⟩ := tick
    rw [List.length_cons] at hlength
    have hn : n < 2 * (s.axis a).target.toNat := by omega
    obtain ⟨u, now, hu, haxis, hulast, hconfig⟩ := h.timely_tick hn hlast (hticks (gap, r) (by simp))
    have htarget : (u.axis a).target = (s.axis a).target := by rw [haxis]; rfl
    have hperiod : (u.axis a).halfPeriod = (s.axis a).halfPeriod := by rw [haxis]; rfl
    obtain ⟨t, ht, hdone, htt⟩ := ih (n := n + 1) (s := u) (haxis ▸ h.edge hn now) hulast
      (fun x hx => by rw [hconfig, hperiod]; exact hticks x (by simp [hx])) (by rw [htarget]; omega)
    refine ⟨t, ?_, htarget ▸ hdone, htt.trans htarget⟩
    rw [runCommand, if_neg (mt h.sub_done_iff.mp hn.ne), hu]
    exact ht

/-- Settles O53: two timely ticks a pulse make every edge of the command. -/
theorem timelyTicksCompleteTheCommand : Obligations.TimelyTicksCompleteTheCommand := by
  intro a ticks s hconf hsub hissued hpos hfits hlast hticks hlength
  obtain ⟨t, hrun, h, htarget⟩ :=
    (CommandAt.accepted hconf hsub hissued hpos hfits).runCommand_timely hlast hticks ((Nat.zero_add _).trans hlength)
  refine ⟨t, hrun, h.sub_done_iff.mpr (by rw [htarget]), BitVec.eq_of_toNat_eq ?_⟩
  rw [h.issued_toNat, Nat.mul_div_cancel_left _ two_pos]

end Sys2Proof.Machine
end

section
/-! PROOFS. FREERUN: its faults, the first use, the toggle, and what it never does (rules R150 to R152 of
spec/41_freerun.md). -/

namespace Sys2Proof.Machine

section
variable {a : Axis} {now : Nat} {s t : State}

/-! ### The three branches (rules R150, R151). -/

theorem exec_freerun (hconf : (s.axis a).configured = true) (hsub : (s.axis a).sub = .idle) :
    exec (.freerun a) s = .next (drawResult (freerunAxis a (readUsec s) s)) :=
  execFreerun_eq_next.mpr ⟨hconf, hsub, rfl⟩

theorem freerunAxis_first (hheld : (s.axis a).timeHeld = false) :
    freerunAxis a now s = s.setAxis a { s.axis a with lastTime := now, timeHeld := true } := by
  simp [freerunAxis, hheld]

theorem freerunAxis_due (hheld : (s.axis a).timeHeld = true) (htime : timeTest s a now = true) :
    freerunAxis a now s = toggleStepLine a now s := by
  simp [freerunAxis, hheld, htime]

theorem freerunAxis_early (hheld : (s.axis a).timeHeld = true) (htime : timeTest s a now = false) :
    freerunAxis a now s = s := by
  simp [freerunAxis, hheld, htime]

/-! ### The record and the lines afterwards (rule R152). -/

@[simp] theorem axis_toggleStepLine_same :
    (toggleStepLine a now s).axis a = { s.axis a with lastTime := now, timeHeld := true } :=
  axis_setAxis_same _ _ _

theorem wroteLine_toggleStepLine :
    WroteLine (s.axis a).stepPin (s.line (s.axis a).stepPin).inv (some now) s (drawResult (toggleStepLine a now s)) :=
  wroteLine_of_out_ev (out_setAxis _ _ _) (ev_setAxis _ _ _)

/-- A record whose `lastTime` holds a value holds one at any other time. -/
theorem withTime_of_held {m : MotorAxis} (hheld : m.timeHeld = true) (now : Nat) :
    { m with lastTime := now, timeHeld := true } = { m with lastTime := now } := by rw [← hheld]

theorem exec_freerun_axis (h : exec (.freerun a) s = .next t) :
    t.axis a = { s.axis a with lastTime := (t.axis a).lastTime, timeHeld := true } := by
  obtain ⟨-, -, rfl⟩ := execFreerun_eq_next.mp h
  rw [axis_drawResult]
  rcases freerunAxis_cases a (readUsec s) s with ⟨-, e⟩ | ⟨-, -, e⟩ | ⟨hheld, -, e⟩ <;> rw [e]
  · simp
  · simp
  · exact (withTime_of_held hheld _).symm

/-- Lines and history after FREERUN: its toggle of the step line, or nothing. -/
theorem exec_freerun_lines (h : exec (.freerun a) s = .next t) :
    SameLines s t ∨
      WroteLine (s.axis a).stepPin (s.line (s.axis a).stepPin).inv (some (readUsec s)) s t := by
  obtain ⟨-, -, rfl⟩ := execFreerun_eq_next.mp h
  rcases freerunAxis_cases a (readUsec s) s with ⟨-, e⟩ | ⟨-, -, e⟩ | ⟨-, -, e⟩ <;> rw [e]
  · exact .inl (sameLines_of_out_ev (by simp) (by simp))
  · exact .inr wroteLine_toggleStepLine
  · exact .inl (sameLines_of_out_ev rfl rfl)

end

/-- Settles O32: the faults are the third and fourth preconditions; then the time test decides between the toggle and
nothing. -/
theorem freerunTogglesWhenDue : Obligations.FreerunTogglesWhenDue := by
  refine ⟨fun a s hconf => exec_of_unconfigured rfl rfl hconf,
    fun a s hconf hsub => exec_of_protocol_broken hconf (decide_eq_false hsub), fun a s hconf hsub hheld => ?_⟩
  have h := exec_freerun hconf hsub
  obtain ⟨hother, hfilter, henv, hfree⟩ := exec_frame rfl h
  refine ⟨_, h, hother, hfilter, henv, hfree, fun hdue => ?_, fun hearly => ?_⟩
  · rw [freerunAxis_due hheld (timeTest_readUsec_iff.mpr hdue)]
    refine ⟨wroteLine_toggleStepLine, ?_⟩
    rw [axis_drawResult, axis_toggleStepLine_same, withTime_of_held hheld, readUsec]
  · rw [freerunAxis_early hheld (timeTest_readUsec_eq_false_iff.mpr hearly)]
    exact ⟨sameLines_of_out_ev rfl rfl, axis_drawResult s a⟩

/-- Settles O33: the first FREERUN is one write of the axis' time. -/
theorem firstFreerunOnlyRecords : Obligations.FirstFreerunOnlyRecords := by
  intro a s hconf hsub hheld
  have h := exec_freerun hconf hsub
  rw [freerunAxis_first hheld] at h
  obtain ⟨hother, hfilter, henv, hfree⟩ := exec_frame rfl h
  exact ⟨_, h, by simp [readUsec], hother, sameLines_of_out_ev (by simp) (by simp), hfilter, henv, hfree⟩

/-- Settles O34: the record changes in its time alone, and the one write is the toggle. -/
theorem freerunCountsNothing : Obligations.FreerunCountsNothing := by
  intro a s t h
  obtain ⟨hother, -, -, -⟩ := exec_frame rfl h
  refine ⟨exec_freerun_axis h, hother, ?_⟩
  rcases exec_freerun_lines h with ⟨hline, hev⟩ | ⟨-, hline, hev⟩
  · exact ⟨fun p _ => hline p, .inl hev⟩
  · exact ⟨hline, .inr ⟨_, rfl, hev⟩⟩

end Sys2Proof.Machine
end

section
/-! PROOFS. SAMPLE: the filter state it leaves, its result and its frame; the range and the format every step keeps, and
convergence (rules R160 to R167 of spec/42_sensor_filter.md). -/

namespace Sys2Proof.Machine

/-! ### The calibration writes the result port alone. -/

@[simp] theorem primed_calibrate (s : State) : (calibrate s).primed = s.primed := by
  rcases calibrate_cases s with ⟨-, e⟩ | ⟨-, e⟩ <;> simp [e]

@[simp] theorem filtered_calibrate (s : State) : (calibrate s).filtered = s.filtered := by
  rcases calibrate_cases s with ⟨-, e⟩ | ⟨-, e⟩ <;> simp [e]

@[simp] theorem ev_calibrate (s : State) : (calibrate s).ev = s.ev := by
  rcases calibrate_cases s with ⟨-, e⟩ | ⟨-, e⟩ <;> simp [e]

theorem calibrate_of_pos {s : State} (h : 0 < s.filtered) :
    calibrate s = { s with q := calPositive s.config s.filtered } := if_pos (Rat.num_pos.mpr h)

theorem calibrate_of_nonpos {s : State} (h : s.filtered ≤ 0) : calibrate s = drawResult s :=
  if_neg (not_lt.mpr (Rat.num_nonpos.mpr h))

/-! ### One SAMPLE. -/

theorem nextFiltered_unprimed {s : State} (h : s.primed = false) (raw : Nat) : nextFiltered s raw = (raw : ℚ) := by
  simp [nextFiltered, h]

theorem nextFiltered_primed {s : State} (h : s.primed = true) (raw : Nat) :
    nextFiltered s raw = smooth s.config raw s.filtered := by
  simp [nextFiltered, h]

section
variable {operand : Word} {s t : State}

theorem exec_sample_completes (hfits : operand.toNat < 2 ^ s.config.rawBits) (hvariant : s.config.filter = .exponential) :
    ∃ t, exec (.sample operand) s = .next t :=
  ⟨_, execSample_eq_next.mpr ⟨decide_eq_true hfits, hvariant, rfl⟩⟩

/-- An operand that SAMPLE takes has no reserved bit (rule R95). -/
theorem exec_sample_fits (h : exec (.sample operand) s = .next t) : operand.toNat < 2 ^ s.config.rawBits :=
  of_decide_eq_true (execSample_eq_next.mp h).1

theorem exec_sample_filter (h : exec (.sample operand) s = .next t) :
    t.primed = true ∧ t.filtered = nextFiltered s operand.toNat := by
  obtain ⟨-, -, rfl⟩ := execSample_eq_next.mp h
  simp

theorem exec_sample_calibrated (h : exec (.sample operand) s = .next t) (hpos : 0 < t.filtered) :
    t.q = calPositive s.config t.filtered ∧ t.draws = s.draws := by
  obtain ⟨-, -, rfl⟩ := execSample_eq_next.mp h
  rw [filtered_calibrate] at hpos ⊢
  rw [calibrate_of_pos hpos]
  exact ⟨rfl, rfl⟩

theorem exec_sample_resultFree (h : exec (.sample operand) s = .next t) (hnonpos : t.filtered ≤ 0) :
    ResultFree s t := by
  obtain ⟨-, -, rfl⟩ := execSample_eq_next.mp h
  rw [filtered_calibrate] at hnonpos
  rw [calibrate_of_nonpos hnonpos]
  exact resultFree_drawResult rfl

theorem exec_sample_frame (h : exec (.sample operand) s = .next t) :
    (∀ b, t.axis b = s.axis b) ∧ SameLines s t ∧ SameEnvironment s t := by
  refine ⟨fun b => exec_axis_of_not_addressed (by simp [axisOf]) h, ?_, exec_sameEnvironment h⟩
  obtain ⟨-, -, rfl⟩ := execSample_eq_next.mp h
  exact sameLines_of_out_ev (out_calibrate _) (ev_calibrate _)

end

/-- What an operation can do to the filter: take a raw sample in range, or leave it (rules R160, R163). -/
theorem exec_filter_cases {i : Instr} {s t : State} (h : exec i s = .next t) :
    (∃ raw < 2 ^ s.config.rawBits, t.primed = true ∧ t.filtered = nextFiltered s raw) ∨ SameFilter s t := by
  by_cases hi : ∃ operand, i = .sample operand
  · obtain ⟨operand, rfl⟩ := hi
    exact .inl ⟨operand.toNat, exec_sample_fits h, exec_sample_filter h⟩
  · exact .inr (exec_sameFilter (fun operand e => hi ⟨operand, e⟩) h)

theorem exec_keeps_primed {i : Instr} {s t : State} (h : exec i s = .next t) (hs : s.primed = true) :
    t.primed = true := by
  rcases exec_filter_cases h with ⟨_, _, hprimed, -⟩ | ⟨hprimed, -⟩
  · exact hprimed
  · exact hprimed.trans hs

/-- Settles O35: an unprimed filter takes the raw operand; the other operations are not SAMPLE and leave the filter. -/
theorem firstSampleInitialisesTheFilter : Obligations.FirstSampleInitialisesTheFilter := by
  refine ⟨fun operand s hfits hvariant hprimed => ?_, fun _ _ _ => exec_keeps_primed, fun _ _ _ => exec_sameFilter⟩
  obtain ⟨t, h⟩ := exec_sample_completes hfits hvariant
  obtain ⟨hprimed', hfiltered⟩ := exec_sample_filter h
  rw [nextFiltered_unprimed hprimed] at hfiltered
  refine ⟨t, h, hfiltered, hprimed', fun hpos => ?_, exec_sample_frame h⟩
  rw [← hfiltered]
  exact (exec_sample_calibrated h (by rw [hfiltered]; exact_mod_cast hpos)).1

/-- Settles O36: a primed filter smooths, and the sign of what that leaves decides between calibration and draw. -/
theorem sampleSmoothsAndCalibrates : Obligations.SampleSmoothsAndCalibrates := by
  intro operand s hfits hvariant hprimed
  obtain ⟨t, h⟩ := exec_sample_completes hfits hvariant
  obtain ⟨hprimed', hfiltered⟩ := exec_sample_filter h
  rw [nextFiltered_primed hprimed] at hfiltered
  refine ⟨t, h, hprimed', hfiltered, fun hexact => ?_, exec_sample_calibrated h, exec_sample_resultFree h,
    exec_sample_frame h⟩
  rw [hfiltered, smooth, hexact, exactSmooth]

/-- Settles O38: at 0 the calibration is a draw, whether the 0 is a first sample or a smoothed one. -/
theorem calibrationOfZeroIsAnyValue : Obligations.CalibrationOfZeroIsAnyValue := by
  intro operand s hfits hvariant hzero
  obtain ⟨t, h⟩ := exec_sample_completes hfits hvariant
  obtain ⟨hprimed', hfiltered⟩ := exec_sample_filter h
  have hfiltered0 : t.filtered = 0 := by
    rw [hfiltered]
    rcases hzero with ⟨hprimed, hraw⟩ | ⟨hprimed, hsmooth⟩
    · rw [nextFiltered_unprimed hprimed, hraw, Nat.cast_zero]
    · rw [nextFiltered_primed hprimed, hsmooth]
  exact ⟨t, h, hfiltered0, hprimed', exec_sample_resultFree h hfiltered0.le, exec_sample_frame h⟩

/-! ### What every step keeps of the filter state (rules R62, R164, R167). -/

/-- Under parameters `c` the filter state, if there is one, has the property `P`. -/
def FilterHas (c : Config) (P : ℚ → Prop) (s : State) : Prop := s.config = c ∧ (s.primed = true → P s.filtered)

section
variable {c : Config} {P : ℚ → Prop} (hfirst : ∀ raw : Nat, raw < 2 ^ c.rawBits → P raw)
  (hsmooth : ∀ (raw : Nat) (prev : ℚ), raw < 2 ^ c.rawBits → P prev → P (smooth c raw prev))
include hfirst hsmooth

theorem FilterHas.nextFiltered {s : State} (hs : FilterHas c P s) {raw : Nat} (hraw : raw < 2 ^ c.rawBits) :
    P (nextFiltered s raw) := by
  obtain ⟨rfl, hP⟩ := hs
  cases hprimed : s.primed with
  | false =>
    rw [nextFiltered_unprimed hprimed]
    exact hfirst raw hraw
  | true =>
    rw [nextFiltered_primed hprimed]
    exact hsmooth raw _ hraw (hP hprimed)

theorem exec_filterHas {i : Instr} {s t : State} (h : exec i s = .next t) (hs : FilterHas c P s) :
    FilterHas c P t := by
  refine ⟨(exec_sameEnvironment h).config.trans hs.1, fun hprimed => ?_⟩
  rcases exec_filter_cases h with ⟨raw, hraw, -, hfiltered⟩ | ⟨hprimed_eq, hfiltered⟩ <;> rw [hfiltered]
  · exact hs.nextFiltered hfirst hsmooth (hs.1 ▸ hraw)
  · exact hs.2 (hprimed_eq ▸ hprimed)

theorem filterHas_closed : Closed fun s t => FilterHas c P s → FilterHas c P t where
  trans h1 h2 := h2 ∘ h1
  exec := exec_filterHas hfirst hsmooth
  same h hs := ⟨h.config.trans hs.1, by rw [h.primed, h.filtered]; exact hs.2⟩

/-- What every raw sample has and smoothing keeps, every step keeps: a power cycle leaves no filter state. -/
theorem step_filterHas {s t : State} (hs : FilterHas c P s) (h : step s = .next t) : FilterHas c P t := by
  rcases step_powerCycle_or_not h with hin | ⟨time, msecOrigin, rest, -, rfl⟩
  · exact (filterHas_closed hfirst hsmooth).step hin h hs
  · exact ⟨hs.1, fun hprimed => absurd hprimed Bool.false_ne_true⟩

end

/-- Exact smoothing is a convex combination, so it stays in any interval that holds both of its arguments. -/
theorem exactSmooth_mem_Icc {alpha prev lower upper : ℚ} {raw : Nat} (hpos : 0 < alpha) (hle : alpha ≤ 1)
    (hraw : (raw : ℚ) ∈ Set.Icc lower upper) (hprev : prev ∈ Set.Icc lower upper) :
    exactSmooth alpha raw prev ∈ Set.Icc lower upper :=
  convex_Icc lower upper hraw hprev hpos.le (sub_nonneg.mpr hle) (add_sub_cancel alpha 1)

/-- A normal mantissa at an exponent in range is the value of a finite word (rule R88). -/
theorem isNum_of_mantissa {m e : Nat} (hm : 2 ^ 23 ≤ m) (hm' : m < 2 ^ 24) (he : 1 ≤ e) (he' : e < 255) :
    IsNum ((m : ℚ) * 2 ^ ((e : ℤ) - 150)) := by
  obtain ⟨w, hw⟩ : ∃ w : Word, w.toNat = (e - 1) * 2 ^ 23 + m :=
    ⟨BitVec.ofNat 32 ((e - 1) * 2 ^ 23 + m), by rw [BitVec.toNat_ofNat]; exact Nat.mod_eq_of_lt (by omega)⟩
  have hexp : numExponent w = e := by rw [numExponent_eq, hw]; omega
  have hfrac : numFraction w = m - 2 ^ 23 := by rw [numFraction_eq, hw]; omega
  have hsign : numSign w = false := by rw [numSign_eq, hw]; exact decide_eq_false (by omega)
  obtain ⟨hzero, -⟩ | ⟨-, heff, hman⟩ := subnormal_or_normal w
  · omega
  · refine ⟨w, by simpa [numFinite, hexp] using he'.ne, ?_⟩
    rw [numVal, hsign, if_neg Bool.false_ne_true, numMagnitude_eq, heff, hexp, hman, hfrac, Nat.add_sub_cancel' hm]

/-- A raw sample of at most 24 bits converts exactly (rule R164). -/
theorem isNum_natCast {n : Nat} (h : n < 2 ^ 24) : IsNum (n : ℚ) := by
  rcases Nat.eq_zero_or_pos n with rfl | hpos
  · exact ⟨0#32, by decide, by decide⟩
  · have hlog : Nat.log2 n ≤ 23 := Nat.le_of_lt_succ ((Nat.log2_lt hpos.ne').mpr h)
    obtain ⟨j, hj⟩ := Nat.exists_eq_add_of_le hlog
    have hlower : 2 ^ 23 ≤ n * 2 ^ j := by
      rw [hj, pow_add]
      exact Nat.mul_le_mul_right _ (Nat.log2_self_le hpos.ne')
    have hupper : n * 2 ^ j < 2 ^ 24 := by
      rw [show 24 = (Nat.log2 n + 1) + j by omega, pow_add _ _ j]
      exact Nat.mul_lt_mul_of_pos_right Nat.lt_log2_self (Nat.two_pow_pos j)
    have hnum := isNum_of_mantissa hlower hupper (e := Nat.log2 n + 127) (by omega) (by omega)
    rwa [show ((Nat.log2 n + 127 : ℕ) : ℤ) - 150 = -(j : ℤ) by omega, Nat.cast_mul, zpow_neg, zpow_natCast,
      Nat.cast_pow, Nat.cast_ofNat, mul_inv_cancel_right₀ (by positivity)] at hnum

/-- Settles O41: exact smoothing is a convex combination, and the platform's leaves a NUM value whatever was there. -/
theorem filterStaysInRange : Obligations.FilterStaysInRange := by
  constructor
  · intro s t hexact hpos hle hs h
    have hfirst (raw : Nat) (hraw : raw < 2 ^ s.config.rawBits) :
        (raw : ℚ) ∈ Set.Icc 0 ((2 ^ s.config.rawBits - 1 : ℕ) : ℚ) :=
      ⟨Nat.cast_nonneg raw, Nat.cast_le.mpr (Nat.le_sub_one_of_lt hraw)⟩
    have hsmooth (raw : Nat) (prev : ℚ) (hraw : raw < 2 ^ s.config.rawBits)
        (hprev : prev ∈ Set.Icc 0 ((2 ^ s.config.rawBits - 1 : ℕ) : ℚ)) :
        smooth s.config raw prev ∈ Set.Icc 0 ((2 ^ s.config.rawBits - 1 : ℕ) : ℚ) := by
      rw [smooth, hexact]
      exact exactSmooth_mem_Icc hpos hle (hfirst raw hraw) hprev
    obtain ⟨hconfig, hrange⟩ := step_filterHas hfirst hsmooth ⟨rfl, hs⟩ h
    rw [FilterInRange, hconfig]
    exact hrange
  · intro s t hplatform hbits hs h
    have hfirst (raw : Nat) (hraw : raw < 2 ^ s.config.rawBits) : IsNum (raw : ℚ) :=
      isNum_natCast (hraw.trans_le (Nat.pow_le_pow_right two_pos hbits))
    exact (step_filterHas hfirst (fun raw prev _ _ => isNum_smooth hplatform raw prev) ⟨rfl, hs⟩ h).2

/-! ### A constant raw value (rule R166). -/

/-- The distance to the raw value shrinks by `1 - ALPHA` at each call. -/
theorem exactSmooth_sub (alpha prev : ℚ) (raw : Nat) :
    exactSmooth alpha raw prev - raw = (1 - alpha) * (prev - raw) := by
  unfold exactSmooth
  ring

theorem runSamples_replicate {raw : Word} (n : Nat) {s : State} (hfits : raw.toNat < 2 ^ s.config.rawBits)
    (hvariant : s.config.filter = .exponential) (hexact : s.config.smoothEval = .exact) (hprimed : s.primed = true) :
    ∃ t, runSamples (List.replicate n raw) s = .next t ∧ t.primed = true ∧
      t.filtered = (raw.toNat : ℚ) + (1 - s.config.alpha) ^ n * (s.filtered - (raw.toNat : ℚ)) := by
  induction n generalizing s with
  | zero => exact ⟨s, rfl, hprimed, by ring⟩
  | succ n ih =>
    obtain ⟨u, hu⟩ := exec_sample_completes hfits hvariant
    obtain ⟨hprimed_u, hfiltered_u⟩ := exec_sample_filter hu
    have hconfig : u.config = s.config := (exec_sameEnvironment hu).config
    obtain ⟨t, ht, hprimed_t, hfiltered_t⟩ :=
      ih (s := u) (hconfig ▸ hfits) (hconfig ▸ hvariant) (hconfig ▸ hexact) hprimed_u
    refine ⟨t, by rw [List.replicate_succ, runSamples, hu, andThen_next, ht], hprimed_t, ?_⟩
    rw [hfiltered_t, hconfig, hfiltered_u, nextFiltered_primed hprimed, smooth, hexact, exactSmooth_sub, pow_succ,
      mul_assoc]

/-- A geometric sequence of ratio in `[0, 1)` is within any tolerance from some index on. -/
theorem exists_forall_abs_pow_mul_lt {ratio : ℚ} (hnonneg : 0 ≤ ratio) (hlt : ratio < 1) (x : ℚ) {eps : ℚ}
    (heps : 0 < eps) : ∃ bound : Nat, ∀ n, bound ≤ n → |ratio ^ n * x| < eps := by
  have hlimit := ((tendsto_pow_atTop_nhds_zero_of_lt_one hnonneg hlt).mul_const x).abs
  rw [zero_mul, abs_zero] at hlimit
  exact Filter.eventually_atTop.mp (hlimit.eventually_lt_const heps)

/-- Settles O40: the closed form by induction on the calls, and its last term is geometric of ratio `1 - ALPHA`. -/
theorem filterConvergesGeometrically : Obligations.FilterConvergesGeometrically := by
  refine ⟨fun n raw s => runSamples_replicate n, fun raw s eps hfits hvariant hexact hprimed hpos hle heps => ?_⟩
  obtain ⟨bound, hbound⟩ := exists_forall_abs_pow_mul_lt (sub_nonneg.mpr hle) (sub_lt_self 1 hpos)
    (s.filtered - (raw.toNat : ℚ)) heps
  refine ⟨bound, fun n hn => ?_⟩
  obtain ⟨t, ht, -, hfiltered⟩ := runSamples_replicate n hfits hvariant hexact hprimed
  exact ⟨t, ht, by rw [hfiltered, add_sub_cancel_left]; exact hbound n hn⟩

end Sys2Proof.Machine
end

section
/-! PROOFS. The calibration: the model's exact powers and roots compute the law of rule R162 wherever its value is a
rational number, so that `Cal` has that value wherever it is a NUM value (rules R9, R162 of spec/42_sensor_filter.md). -/

namespace Sys2Proof.Machine

/-! ### The whole root. -/

/-- The bits found so far and those still open bracket the root. -/
theorem rootBits_bracket {n y : Nat} (bits : Nat) {r : Nat} (hlower : r ^ n ≤ y) (hupper : y < (r + 2 ^ bits) ^ n) :
    rootBits n y bits r ^ n ≤ y ∧ y < (rootBits n y bits r + 1) ^ n := by
  induction bits generalizing r with
  | zero => exact ⟨hlower, hupper⟩
  | succ bits ih =>
    rw [rootBits]
    split
    case isTrue hbit =>
      refine ih hbit ?_
      rwa [add_assoc, ← two_mul, ← pow_succ']
    case isFalse hbit => exact ih hlower (not_le.mp hbit)

theorem wholeRoot_bracket {n : Nat} (hn : n ≠ 0) (y : Nat) : wholeRoot n y ^ n ≤ y ∧ y < (wholeRoot n y + 1) ^ n := by
  refine rootBits_bracket _ (by simp [hn]) ?_
  rw [zero_add]
  exact Nat.lt_log2_self.trans_le (Nat.le_self_pow hn _)

/-- The whole root of a power is its base. -/
theorem wholeRoot_pow {n : Nat} (hn : n ≠ 0) (x : Nat) : wholeRoot n (x ^ n) = x := by
  obtain ⟨hlower, hupper⟩ := wholeRoot_bracket hn (x ^ n)
  have hle : wholeRoot n (x ^ n) ≤ x := (Nat.pow_le_pow_iff_left hn).mp hlower
  have hlt : x < wholeRoot n (x ^ n) + 1 := (Nat.pow_lt_pow_iff_left hn).mp hupper
  omega

/-! ### The law's power that is always a rational number. -/

theorem powParts_div (n d : Nat) (k : ℤ) :
    ((powParts n d k).1 : ℝ) / ((powParts n d k).2 : ℝ) = ((n : ℝ) / d) ^ k := by
  unfold powParts
  split
  case isTrue hk =>
    obtain ⟨j, rfl⟩ := Int.eq_ofNat_of_zero_le hk
    simp [div_pow]
  case isFalse hk =>
    obtain ⟨j, hj⟩ := Int.eq_ofNat_of_zero_le (show 0 ≤ -k by omega)
    obtain rfl : k = -(j : ℤ) := by omega
    simp only [neg_neg, Int.toNat_natCast, Nat.cast_pow, zpow_neg, zpow_natCast, ← div_pow, ← inv_pow, inv_div]

/-- A real power by a rational exponent, to a multiple of the exponent's denominator, is a power by an integer. -/
theorem rpow_rat_pow_den_mul {x : ℝ} (hx : 0 ≤ x) (e : ℚ) (k : Nat) :
    (x ^ (e : ℝ)) ^ (e.den * k) = x ^ (e.num * (k : ℤ)) := by
  have hexp : (e : ℝ) * ((e.den * k : ℕ) : ℝ) = ((e.num * (k : ℤ) : ℤ) : ℝ) := by
    have hden : (e : ℝ) * (e.den : ℝ) = (e.num : ℝ) := by exact_mod_cast Rat.mul_den_eq_num e
    push_cast
    rw [← mul_assoc, hden]
  rw [← Real.rpow_natCast, ← Real.rpow_mul hx, hexp, Real.rpow_intCast]

/-- The model's power is the law's, to the product of the exponents' denominators (rule R162). -/
theorem rationalCalPower_eq (a b : ℚ) {f : ℚ} (hf : 0 < f) :
    ((rationalCalPower a b f : ℚ) : ℝ) = ((10 : ℝ) ^ (b : ℝ) * (f : ℝ) ^ (a : ℝ)) ^ (a.den * b.den) := by
  have hstate : (f.num.toNat : ℝ) / (f.den : ℝ) = (f : ℝ) := by
    have hnum : ((f.num.toNat : ℕ) : ℝ) = ((f.num : ℤ) : ℝ) := by
      exact_mod_cast Int.toNat_of_nonneg (Rat.num_pos.mpr hf).le
    rw [hnum, Rat.cast_def]
  have hf' : (0 : ℝ) ≤ f := by exact_mod_cast hf.le
  rw [mul_pow, rpow_rat_pow_den_mul hf', mul_comm a.den b.den, rpow_rat_pow_den_mul (by norm_num), rationalCalPower,
    Rat.mkRat_eq_div]
  push_cast
  rw [mul_div_mul_comm, powParts_div, powParts_div, hstate, Nat.cast_ofNat, Nat.cast_one, div_one]

/-! ### The law's value where it is a rational number. -/

theorem mkRat_toNat_num {x : ℚ} (hx : 0 < x) : mkRat ((x.num.toNat : ℕ) : ℤ) x.den = x := by
  rw [Int.toNat_of_nonneg (Rat.num_pos.mpr hx).le, Rat.mkRat_self]

/-- The roots of numerator and denominator find the value whose power the model has (rule R162). -/
theorem rationalCal_of_pow {a b f x : ℚ} (hx : 0 < x) (hpow : rationalCalPower a b f = x ^ (a.den * b.den)) :
    rationalCal a b f = some x := by
  have hn : a.den * b.den ≠ 0 := Nat.mul_ne_zero a.den_nz b.den_nz
  have hnum : (x ^ (a.den * b.den)).num.toNat = x.num.toNat ^ (a.den * b.den) := by
    rw [Rat.num_pow, Int.toNat_pow_of_nonneg (Rat.num_pos.mpr hx).le]
  simp only [rationalCal, hpow, hnum, Rat.den_pow, wholeRoot_pow hn, and_self, if_true, mkRat_toNat_num hx]

theorem rationalCal_of_law {a b f x : ℚ} (hf : 0 < f) (hlaw : (x : ℝ) = (10 : ℝ) ^ (b : ℝ) * (f : ℝ) ^ (a : ℝ)) :
    rationalCal a b f = some x := by
  have hf' : (0 : ℝ) < f := by exact_mod_cast hf
  have hx : (0 : ℝ) < x := by rw [hlaw]; positivity
  have hpow := rationalCalPower_eq a b hf
  rw [← hlaw] at hpow
  exact rationalCal_of_pow (by exact_mod_cast hx) (by exact_mod_cast hpow)

/-- The word found for a NUM value has that value (rule R9). -/
theorem numWordOf_of_isNum {x : ℚ} (h : IsNum x) : ∃ v, numWordOf x = some v ∧ numFinite v = true ∧ numVal v = x := by
  have hrep := representable_of_isNum h
  refine ⟨nearestNum x, if_pos hrep, ?_⟩
  simpa only [representable, Bool.and_eq_true, decide_eq_true_eq] using hrep

/-! ### The calibration. -/

section
variable {c : Config} {f : ℚ} {w : Word}

theorem exactCal_of_law (hc : CalExactOk c) (hf : 0 < f) (hw : numFinite w = true)
    (hlaw : (numVal w : ℝ) = calLaw c f) : ∃ v, exactCal c f = some v ∧ numFinite v = true ∧ numVal v = numVal w := by
  have listed (hno : ¬ ∃ a b, c.calA = .rational a ∧ c.calB = .rational b) := hc.resolve_left hno f w hf hw hlaw
  unfold exactCal
  split
  case h_1 a b ha hb =>
    rw [calLaw, ha, hb] at hlaw
    rw [rationalCal_of_law hf hlaw]
    exact numWordOf_of_isNum ⟨w, hw, rfl⟩
  all_goals
    rename_i ha hb
    exact listed (by simp [ha, hb])

theorem calPositive_of_law (hc : CalExactOk c) (hf : 0 < f) (hw : numFinite w = true)
    (hlaw : (numVal w : ℝ) = calLaw c f) :
    numFinite (calPositive c f) = true ∧ numVal (calPositive c f) = numVal w := by
  obtain ⟨v, hv, hfinite, hval⟩ := exactCal_of_law hc hf hw hlaw
  rw [calPositive, hv]
  exact ⟨hfinite, hval⟩

theorem calPositive_of_mem_calExactStates (hc : CalExactOk c) (hf : f ∈ calExactStates c) :
    (numVal (calPositive c f) : ℝ) = calLaw c f := by
  obtain ⟨hpos, w, hw, hlaw⟩ := hf
  rw [(calPositive_of_law hc hpos hw hlaw).2, hlaw]

end

theorem calLaw_strictAnti {c : Config} {f g : ℚ} (hf : 0 < f) (hfg : f < g) (ha : c.calA.value < 0) :
    calLaw c g < calLaw c f :=
  mul_lt_mul_of_pos_left (Real.rpow_lt_rpow_of_neg (by exact_mod_cast hf) (by exact_mod_cast hfg) ha) (by positivity)

theorem calLaw_strictMono {c : Config} {f g : ℚ} (hf : 0 < f) (hfg : f < g) (ha : 0 < c.calA.value) :
    calLaw c f < calLaw c g :=
  mul_lt_mul_of_pos_left (Real.rpow_lt_rpow (by exact_mod_cast hf.le) (by exact_mod_cast hfg) ha) (by positivity)

theorem calMonotoneOn_calExactStates {c : Config} (hc : CalExactOk c) : CalMonotoneOn c (calExactStates c) := by
  intro f hf g hg hpos hfg
  rw [← Rat.cast_lt (K := ℝ), ← Rat.cast_lt (K := ℝ), calPositive_of_mem_calExactStates hc hf,
    calPositive_of_mem_calExactStates hc hg]
  exact ⟨calLaw_strictAnti hpos hfg, calLaw_strictMono hpos hfg⟩

theorem calPositive_congr {c c' : Config} (hA : c.calA = c'.calA) (hB : c.calB = c'.calB)
    (hexact : c.calExact = c'.calExact) (f : ℚ) : calPositive c f = calPositive c' f := by
  unfold calPositive exactCal calKey
  rw [hA, hB, hexact]

/-- Settles O37: rational constants by the model's exact root of a power, the others by the parameter record's list;
the order of `Cal` is then that of the law. -/
theorem calibrationIsExactOnNumValues : Obligations.CalibrationIsExactOnNumValues :=
  ⟨fun _ _ _ hc hf hw hlaw => calPositive_of_law hc hf hw hlaw, fun _ hc => calMonotoneOn_calExactStates hc,
    fun _ _ f hA hB hexact => calPositive_congr hA hB hexact f⟩

end Sys2Proof.Machine
end

section
/-! PROOFS. The documented host, a tick at a time: what its operations leave, the phase graph, the range of the slice
index, and the four ticks that end a phase's work (rules R182 to R197 of spec/45_host_sequencer.md). -/

namespace Sys2Proof.Machine

/-! ### One operation of the host (rules R184, R233). -/

/-- The state an operation of the host finds: its words stand on the ports (rule R80). -/
def State.withWords (s : State) (i : Instr) : State := { s with ports := encode i }

@[simp] theorem axis_withWords (s : State) (i : Instr) (a : Axis) : (s.withWords i).axis a = s.axis a := by
  cases a <;> rfl

@[simp] theorem readUsec_withWords (s : State) (i : Instr) : readUsec (s.withWords i) = readUsec s := rfl

@[simp] theorem timeTest_withWords (s : State) (i : Instr) (a : Axis) (now : Nat) :
    timeTest (s.withWords i) a now = timeTest s a now := by
  cases a <;> rfl

theorem presentInstr_eq_exec (i : Instr) (s : State) : presentInstr i s = exec i (s.withWords i) := by
  rw [presentInstr, present, decode_encode]
  rfl

theorem hostPresent_of_exec {i : Instr} {s t : State} (h : exec i (s.withWords i) = .next t) :
    hostPresent i s = .next t :=
  hostPresent_eq_next.mpr ((presentInstr_eq_exec i s).trans h)

theorem hostPresent_of_exec_fault {i : Instr} {s : State} {c : Fault} (h : exec i (s.withWords i) = .fault c) :
    hostPresent i s = .fault (.inHost s c) :=
  hostPresent_of_fault ((presentInstr_eq_exec i s).trans h)

theorem hostPresent_host {i : Instr} {s t : State} (h : hostPresent i s = .next t) : t.host = s.host :=
  (exec_sameEnvironment (hostPresent_eq_next.mp h)).host

theorem hostPresent_config {i : Instr} {s t : State} (h : hostPresent i s = .next t) : t.config = s.config :=
  (exec_sameEnvironment (hostPresent_eq_next.mp h)).config

theorem hostPresent_rearm {a : Axis} {s : State} (hconf : (s.axis a).configured = true) :
    hostPresent (.rearm a) s =
      .next (drawResult ((s.withWords (.rearm a)).setAxis a { s.axis a with sub := .idle })) :=
  hostPresent_of_exec (execRearm_eq_next.mpr (by simpa using hconf))

/-- The Y direction line is driven to a level, and the host's copy of it set (rule R184). -/
def directionDriven (level : Level) (s : State) : State :=
  drawResult (writeLine s.axisY.dirPin level none
    { s.withWords (.dir .y level 0#31) with host := { s.host with dirLevelY := level } })

theorem driveDirY_of_configured {level : Level} {s : State} (hconf : s.axisY.configured = true) :
    driveDirY level s = .next (directionDriven level s) :=
  hostPresent_of_exec (execDir_eq_next.mpr ⟨rfl, hconf, rfl⟩)

theorem config_directionDriven (level : Level) (s : State) : (directionDriven level s).config = s.config := rfl

theorem line_directionDriven (level : Level) (s : State) :
    (directionDriven level s).line s.axisY.dirPin = level :=
  line_writeLine_same _ _ none _

/-- The host's SETUP of the Y axis. -/
def setupOfY (speed : Word) (s : State) : Instr :=
  .setup .y s.config.host.stepPinY s.config.host.dirPinY 0#16 speed

/-- The Y axis is set up with the platform's pins and a half-period (rules R117, R199). -/
def configuredY (speed : Word) (hp : Nat) (s : State) : State :=
  drawResult ((s.withWords (setupOfY speed s)).setAxis .y
    (configureAxis s.axisY s.config.host.stepPinY s.config.host.dirPinY hp))

theorem setupY_of_legal {speed : Word} {hp : Nat} {s : State} (hfinite : numFinite speed = true)
    (hpins : pinsOk s .y s.config.host.stepPinY s.config.host.dirPinY = true)
    (hperiod : legalHalfPeriod s.config .y speed = some hp) : setupY speed s = .next (configuredY speed hp s) :=
  hostPresent_of_exec (exec_setup hfinite hpins hperiod)

theorem setupY_of_illegal {speed : Word} {s : State} (hperiod : legalHalfPeriod s.config .y speed = none) :
    ∃ c, setupY speed s = .fault (.inHost s c) ∧ faultCode c = 2 :=
  ⟨_, hostPresent_of_exec_fault (exec_setup_fault (.inr (.inr hperiod))), rfl⟩

/-! ### What a tick makes of the host's own state (rules R186 to R197). -/

/-- The moves of the host, one to each edge of the phase graph and one to each tick that stays in its phase. -/
inductive HostMove (s : State) : ScanHost → Prop where
  /-- Rule R186. -/
  | homing (hphase : s.host.phase = .ret) (hbot : s.limBot = .high) : HostMove s s.host
  /-- Rule R187. -/
  | homed (hphase : s.host.phase = .ret) (hbot : s.limBot = .low) :
      HostMove s { s.host with dirLevelY := s.host.dirLevelY.inv, height := 0, phase := .rotate }
  /-- Rule R190. -/
  | aborted (hphase : s.host.phase = .linear) (htop : s.limTop = .low) :
      HostMove s { s.host with dirLevelY := s.host.dirLevelY.inv, phase := .ret }
  /-- Rule R189. -/
  | rising (hphase : s.host.phase = .linear) (htop : s.limTop = .high) : HostMove s s.host
  /-- Rule R191. -/
  | risen (hphase : s.host.phase = .linear) (htop : s.limTop = .high) :
      HostMove s { s.host with height := s.host.height + s.config.host.layerCm, phase := .rotate }
  /-- Rule R192. -/
  | turning (hphase : s.host.phase = .rotate) (hslice : s.host.slice < s.config.host.slicesPerRev) : HostMove s s.host
  /-- Rule R193. -/
  | counted (hphase : s.host.phase = .rotate) (hslice : s.host.slice < s.config.host.slicesPerRev) :
      HostMove s { s.host with slice := s.host.slice + 1 }
  /-- Rule R195. -/
  | wrapped (hphase : s.host.phase = .rotate) (hslice : s.config.host.slicesPerRev ≤ s.host.slice) :
      HostMove s { s.host with slice := 0, phase := .linear }

theorem leaveReturn_host {s t : State} (h : leaveReturn s = .next t) :
    t.host = { s.host with dirLevelY := s.host.dirLevelY.inv, height := 0, phase := .rotate } := by
  simp only [leaveReturn, driveDirY, setupY, andThen_eq_next] at h
  obtain ⟨s1, h1, s2, h2, s3, h3, h4⟩ := h
  cases h4
  simp [hostPresent_host h3, hostPresent_host h2, hostPresent_host h1]

theorem overTravel_host {s t : State} (h : overTravel s = .next t) :
    t.host = { s.host with dirLevelY := s.host.dirLevelY.inv, phase := .ret } := by
  simp only [overTravel, driveDirY, setupY, andThen_eq_next] at h
  obtain ⟨s1, h1, s2, h2, h3⟩ := h
  cases h3
  simp [hostPresent_host h2, hostPresent_host h1]

theorem completeLayer_host {s t : State} (h : completeLayer s = .next t) :
    t.host = { s.host with height := s.host.height + s.config.host.layerCm, phase := .rotate } := by
  obtain ⟨s1, h1, h2⟩ := andThen_eq_next.mp h
  cases h2
  simp [hostPresent_host h1, hostPresent_config h1]

theorem emitReading_eq (d : Rat) (s : State) :
    emitReading d s =
      { s with serial := if readingValid s d then s.serial ++ [.point (pointOf s d)] else s.serial } := by
  unfold emitReading
  split <;> rfl

theorem sampleSlice_host {s t : State} (h : sampleSlice s = .next t) :
    t.host = { s.host with slice := s.host.slice + 1 } := by
  obtain ⟨s1, h1, h2⟩ := andThen_eq_next.mp h
  simp [hostPresent_host h2, emitReading_eq, hostPresent_host h1]

theorem wrapSlices_host {s t : State} (h : wrapSlices s = .next t) :
    t.host = { s.host with slice := 0, phase := .linear } := by
  obtain ⟨s1, h1, h2⟩ := andThen_eq_next.mp h
  cases h2
  simp [hostPresent_host h1]

/-- A guarded ADVANCE ends the tick, or goes on from a state with the same host and parameters. -/
theorem guardedAdvance_cases {a : Axis} {r : Word} {s t : State} {f : State → Result}
    (h : guardedAdvance a r s f = .next t) :
    t.host = s.host ∨ ∃ u, u.host = s.host ∧ u.config = s.config ∧ f u = .next t := by
  obtain ⟨-, h⟩ := withStatus_eq_next.mp h
  obtain ⟨u, h1, h⟩ := andThen_eq_next.mp h
  obtain ⟨-, h⟩ := withStatus_eq_next.mp h
  split at h
  · exact .inr ⟨u, hostPresent_host h1, hostPresent_config h1, h⟩
  · cases h
    exact .inl (hostPresent_host h1)

theorem hostTick_hostMove {s t : State} (h : hostTick s = .next t) : HostMove s t.host := by
  unfold hostTick at h
  split at h
  case h_1 hphase =>
    unfold tickReturn at h
    split at h
    case h_1 hbot => exact leaveReturn_host h ▸ .homed hphase hbot
    case h_2 hbot => exact hostPresent_host h ▸ .homing hphase hbot
  case h_2 hphase =>
    unfold tickLinear at h
    split at h
    case h_1 htop => exact overTravel_host h ▸ .aborted hphase htop
    case h_2 htop =>
      obtain hhost | ⟨u, hhost, hconfig, hu⟩ := guardedAdvance_cases h
      · exact hhost ▸ .rising hphase htop
      · have ht := completeLayer_host hu
        rw [hhost, hconfig] at ht
        exact ht ▸ .risen hphase htop
  case h_3 hphase =>
    unfold tickRotate at h
    split at h
    case isTrue hslice =>
      obtain hhost | ⟨u, hhost, -, hu⟩ := guardedAdvance_cases h
      · exact hhost ▸ .turning hphase hslice
      · have ht := sampleSlice_host hu
        rw [hhost] at ht
        exact ht ▸ .counted hphase hslice
    case isFalse hslice => exact wrapSlices_host h ▸ .wrapped hphase (not_lt.mp hslice)

/-- Settles O58: each move keeps to the phase graph. -/
theorem hostPhaseGraph : Obligations.HostPhaseGraph := by
  intro s t h
  have hmove := hostTick_hostMove h
  generalize t.host = host at hmove
  cases hmove with
  | homing hphase hbot | homed hphase hbot => simp [hphase, hbot]
  | aborted hphase htop | rising hphase htop | risen hphase htop => simp [hphase, htop]
  | turning hphase hslice | counted hphase hslice => simp [hphase, hslice]
  | wrapped hphase hslice => simp [hphase, hslice]

/-! ### The slice index (rule R182). -/

/-- A slice is counted below `SLICES_PER_REV` only. -/
theorem HostMove.slice_le {s : State} {host : ScanHost} (h : HostMove s host) (hs : SliceInRange s) :
    host.slice ≤ s.config.host.slicesPerRev := by
  cases h with
  | counted hphase hslice => exact hslice
  | wrapped => exact Nat.zero_le _
  | homing | homed | aborted | rising | risen | turning => exact hs

theorem presentBoot_slice {s t : State} (h : presentBoot s = .next t) : t.host.slice = s.host.slice := by
  simp only [presentBoot, driveDirY, setupY, setupZ, andThen_eq_next] at h
  obtain ⟨s1, h1, s2, h2, s3, h3, h4⟩ := h
  cases h4
  simp [hostPresent_host h3, hostPresent_host h2, hostPresent_host h1]

/-- A tick, an input of another kind that keeps the slice, or a power cycle that resets it. -/
theorem perform_slice_le {i : Input} {s t : State} (hs : SliceInRange s) (h : perform i s = .next t) :
    t.host.slice ≤ s.config.host.slicesPerRev := by
  cases i with
  | tick => exact (hostTick_hostMove h).slice_le hs
  | present p => exact (congrArg ScanHost.slice (exec_sameEnvironment h).host).trans_le hs
  | boot =>
    by_cases hbooted : s.host.booted = true
    · cases (hostBoot_of_booted hbooted).symm.trans h
      exact hs
    · exact (presentBoot_slice (by simpa [perform, hostBoot, hbooted] using h)).trans_le hs
  | rpmSetup =>
    cases hbusy : busyZ s with
    | true =>
      cases (setupForRpm_of_busy hbusy).symm.trans h
      exact hs
    | false =>
      exact (congrArg ScanHost.slice (hostPresent_host ((setupForRpm_of_free hbusy).symm.trans h))).trans_le hs
  | powerCycle time msecOrigin =>
    cases h
    exact Nat.zero_le _
  | elapse | waitUntil | limits | adc | setRadius | setRpm =>
    cases h
    exact hs

/-- Settles O59: a step is one input, and the parameters stay. -/
theorem sliceIndexStaysInRange : Obligations.SliceIndexStaysInRange := by
  intro s t hs h
  have hconfig : t.config = s.config := (parametersStayAndTimeGoesOn s t h).1
  rw [SliceInRange, hconfig]
  simp only [step, performNext] at h
  split at h
  · cases h
    exact hs
  next i rest _ => exact perform_slice_le (s := { s with inbox := rest }) hs h

/-! ### Leaving Return and Linear by the limit switches (rules R187, R190). -/

/-- Settles O54: DIR, SETUP and REARM complete one after another. -/
theorem hostLeavesReturnOnTheBottomLimit : Obligations.HostLeavesReturnOnTheBottomLimit := by
  intro s hp hphase hbot hconf hfinite hpins hperiod
  have htick : hostTick s = leaveReturn s := by simp only [hostTick, hphase, tickReturn, hbot]
  have hleave : leaveReturn s = .next _ :=
    andThen_eq_next.mpr ⟨_, driveDirY_of_configured hconf,
      andThen_eq_next.mpr ⟨_, setupY_of_legal (s := directionDriven _ s) hfinite hpins hperiod,
        andThen_eq_next.mpr ⟨_, hostPresent_rearm rfl, rfl⟩⟩⟩
  exact ⟨_, htick.trans hleave, rfl, rfl, rfl, rfl, line_directionDriven _ s, rfl, rfl, rfl, rfl, ⟨rfl, rfl⟩, rfl⟩

/-- Settles O55: DIR completes, and SETUP then completes or faults. -/
theorem hostAbortsOnTheTopLimit : Obligations.HostAbortsOnTheTopLimit := by
  have htick {s : State} (hphase : s.host.phase = .linear) (htop : s.limTop = .low) : hostTick s = overTravel s := by
    simp only [hostTick, hphase, tickLinear, htop]
  refine ⟨fun s hp hphase htop hconf hfinite hpins hperiod => ?_, fun s hphase htop hconf hperiod => ?_⟩
  · have habort : overTravel s = .next _ :=
      andThen_eq_next.mpr ⟨_, driveDirY_of_configured hconf,
        andThen_eq_next.mpr ⟨_, setupY_of_legal (s := directionDriven _ s) hfinite hpins hperiod, rfl⟩⟩
    exact ⟨_, (htick hphase htop).trans habort, rfl, rfl, rfl, line_directionDriven _ s, rfl, rfl, rfl, rfl, ⟨rfl, rfl⟩,
      rfl⟩
  · obtain ⟨c, hsetup, hcode⟩ := setupY_of_illegal (s := directionDriven s.host.dirLevelY.inv s) hperiod
    have habort : overTravel s = .fault (.inHost (directionDriven s.host.dirLevelY.inv s) c) := by
      rw [overTravel, driveDirY_of_configured hconf, andThen_next, config_directionDriven, hsetup, andThen_fault]
    exact ⟨_, (htick hphase htop).trans habort, hcode, hphase, rfl, line_directionDriven _ s, rfl,
      fun a => by cases a <;> rfl, rfl, rfl⟩

/-! ### The last low edge of a command (rules R189, R191, R192). -/

/-- The state a host's ADVANCE leaves where it makes the last low edge of a command (rule R127). -/
def lastEdgeMade (a : Axis) (s : State) : State :=
  drawResult ((writeLine (s.axis a).stepPin .low (some (readUsec s)) (s.withWords (.advance a 0#32))).setAxis a
    { s.axis a with
      issued := (s.axis a).issued + 1#32, lastTime := readUsec s, timeHeld := true, sub := .done })

theorem line_lastEdgeMade (a : Axis) (s : State) : (lastEdgeMade a s).line (s.axis a).stepPin = .low := by
  simp [lastEdgeMade]

theorem guardedAdvance_of_lastEdge {a : Axis} {r : Word} {s : State} {f : State → Result}
    (hconf : (s.axis a).configured = true) (hsub : (s.axis a).sub = .pulseLow)
    (htime : timeTest s a (readUsec s) = true)
    (hlast : (s.axis a).target.toNat ≤ ((s.axis a).issued + 1#32).toNat) :
    guardedAdvance a r s f = f (lastEdgeMade a s) := by
  have hcomplete : commandComplete ((s.axis a).issued + 1#32) (s.axis a).target = true := decide_eq_true hlast
  have hadvance : hostPresent (.advance a 0#32) s = .next (lastEdgeMade a s) := by
    refine hostPresent_of_exec ?_
    rw [exec_advance (by simpa) (by decide) (by simp [targetOf_of_isZero numIsZero_posZero]),
      advanceAxis_lowEdge (by simpa) (by simpa using htime)]
    simp only [axis_withWords, readUsec_withWords, hcomplete, if_true]
    rfl
  have hdone : (lastEdgeMade a s).axis a = { s.axis a with
      issued := (s.axis a).issued + 1#32, lastTime := readUsec s, timeHeld := true, sub := .done } := by
    simp [lastEdgeMade]
  simp [guardedAdvance, withStatus, readStatus_of_configured, hconf, hsub, hadvance, hdone]

/-- Settles O56: the tick's ADVANCE leaves the axis Done, and REARM follows. -/
theorem hostCompletesALayer : Obligations.HostCompletesALayer := by
  intro s hphase htop hconf hsub htime hlast
  have htick : hostTick s = completeLayer (lastEdgeMade .y s) := by
    simp only [hostTick, hphase, tickLinear, htop]
    exact guardedAdvance_of_lastEdge hconf hsub htime hlast
  have hcomplete : completeLayer (lastEdgeMade .y s) = .next _ :=
    andThen_eq_next.mpr ⟨_, hostPresent_rearm (a := .y) hconf, rfl⟩
  exact ⟨_, htick.trans hcomplete, rfl, rfl, rfl, rfl, line_lastEdgeMade .y s, rfl⟩

/-! ### The sample of a slice (rules R193, R194). -/

theorem serial_emitReading_of_valid {d : Rat} {s : State}
    (h : numValue s.host.radius + s.config.host.marginCm < d) :
    (emitReading d s).serial = s.serial ++ [.point (pointOf s d)] := by
  simp [emitReading, readingValid, h]

theorem serial_emitReading_of_invalid {d : Rat} {s : State}
    (h : d ≤ numValue s.host.radius + s.config.host.marginCm) : (emitReading d s).serial = s.serial := by
  simp [emitReading, readingValid, h.not_gt]

theorem serial_emitReading_congr {d : Rat} {s u : State} (hhost : u.host = s.host) (hconfig : u.config = s.config)
    (hserial : u.serial = s.serial) : (emitReading d u).serial = (emitReading d s).serial := by
  have hreading : readingValid u d = readingValid s d := by rw [readingValid, readingValid, hhost, hconfig]
  have hpoint : pointOf u d = pointOf s d := by rw [pointOf, pointOf, hhost, hconfig]
  rw [emitReading_eq, emitReading_eq, hreading, hpoint, hserial]

theorem calibrate_q (s : State) :
    (calibrate s).q = if 0 < s.filtered.num then calPositive s.config s.filtered else Config.freeWord s.draws := by
  unfold calibrate
  split <;> rfl

/-- SAMPLE's result and filter state depend on the parameters, the filter state and the draws alone (rules R160 to
R165). -/
theorem exec_sample_congr {operand : Word} {s s' t : State} (h : exec (.sample operand) s = .next t)
    (hconfig : s'.config = s.config) (hprimed : s'.primed = s.primed) (hfiltered : s'.filtered = s.filtered)
    (hdraws : s'.draws = s.draws) :
    ∃ t', exec (.sample operand) s' = .next t' ∧ t'.filtered = t.filtered ∧ t'.q = t.q := by
  obtain ⟨hfits, hvariant, rfl⟩ := execSample_eq_next.mp h
  have hnext : nextFiltered s' operand.toNat = nextFiltered s operand.toNat := by
    simp only [nextFiltered, hconfig, hprimed, hfiltered]
  exact ⟨_, execSample_eq_next.mpr ⟨hconfig ▸ hfits, hconfig ▸ hvariant, rfl⟩, by simp [hnext],
    by simp only [calibrate_q, hnext, hconfig, hdraws]⟩

/-- What follows the SAMPLE of a slice: the point of a valid reading, the count and REARM (rule R193). -/
theorem sampleSlice_of_sample {s u : State} (hconf : s.axisZ.configured = true)
    (h : hostPresent (.sample s.adc) s = .next u) :
    ∃ t, sampleSlice s = .next t ∧ t.filtered = u.filtered ∧ t.primed = u.primed ∧
      t.host = { s.host with slice := s.host.slice + 1 } ∧ t.axisZ.sub = .idle ∧ t.axisY = s.axisY ∧
      t.serial = (emitReading (numValue u.q) s).serial := by
  obtain ⟨haxis, -, henv⟩ := exec_sample_frame ((presentInstr_eq_exec _ s).symm.trans (hostPresent_eq_next.mp h))
  have hconfZ : u.axisZ.configured = true := (congrArg MotorAxis.configured (haxis .z)).trans hconf
  rw [sampleSlice, h, andThen_next, emitReading_eq, hostPresent_rearm (a := .z) (by exact hconfZ)]
  refine ⟨_, rfl, rfl, rfl, congrArg (fun host : ScanHost => { host with slice := host.slice + 1 }) henv.host, rfl,
    haxis .y, ?_⟩
  exact (congrArg State.serial (emitReading_eq _ u)).symm.trans
    (serial_emitReading_congr henv.host henv.config henv.serial)

/-- Settles O57: the tick's ADVANCE leaves the axis Done, and SAMPLE completes or faults. -/
theorem hostSamplesASlice : Obligations.HostSamplesASlice := by
  have htick {s : State} (hphase : s.host.phase = .rotate) (hslice : s.host.slice < s.config.host.slicesPerRev)
      (hconf : s.axisZ.configured = true) (hsub : s.axisZ.sub = .pulseLow)
      (htime : timeTest s .z (readUsec s) = true) (hlast : s.axisZ.target.toNat ≤ (s.axisZ.issued + 1#32).toNat) :
      hostTick s = sampleSlice (lastEdgeMade .z s) := by
    simp only [hostTick, hphase, tickRotate, hslice, if_true]
    exact guardedAdvance_of_lastEdge hconf hsub htime hlast
  refine ⟨fun s hphase hslice hconf hsub htime hlast hfits hvariant => ?_,
    fun s hphase hslice hconf hsub htime hlast hwide => ?_⟩
  · rw [htick hphase hslice hconf hsub htime hlast]
    obtain ⟨u, hu⟩ := exec_sample_completes (s := { s with draws := s.draws + 1 }) hfits hvariant
    obtain ⟨u', hu', hfiltered, hq⟩ :=
      exec_sample_congr (s' := (lastEdgeMade .z s).withWords (.sample s.adc)) hu rfl rfl rfl rfl
    obtain ⟨t, ht, htfiltered, htprimed, hthost, hsubZ, hY, hserial⟩ :=
      sampleSlice_of_sample (s := lastEdgeMade .z s) hconf (hostPresent_of_exec hu')
    refine ⟨t, u, hu, ht, htfiltered.trans hfiltered, htprimed.trans (exec_sample_filter hu').1, ?_, ?_, ?_, hsubZ, hY,
      fun hvalid => ?_, fun hinvalid => ?_⟩
    · rw [hthost]; exact hphase
    · rw [hthost]; rfl
    · rw [hthost]; rfl
    · rw [hserial, hq, serial_emitReading_of_valid (s := lastEdgeMade .z s) hvalid]; rfl
    · rw [hserial, hq, serial_emitReading_of_invalid (s := lastEdgeMade .z s) hinvalid]; rfl
  · rw [htick hphase hslice hconf hsub htime hlast]
    have hfault : hostPresent (.sample s.adc) (lastEdgeMade .z s) =
        .fault (.inHost (lastEdgeMade .z s) (.illegal (encode (.sample s.adc)))) :=
      hostPresent_of_exec_fault (exec_of_not_wellFormed (decide_eq_false (not_lt.mpr hwide)))
    have hslice : sampleSlice (lastEdgeMade .z s) = _ := congrArg (andThen · _) hfault
    exact ⟨_, hslice, rfl, rfl, line_lastEdgeMade .z s, rfl, rfl, ⟨rfl, rfl⟩, rfl, rfl⟩

end Sys2Proof.Machine
end

section
/-! PROOFS. The text of the serial stream: three decimals, each within a thousandth of the coordinate, and the worked
line (rules R194, R200 of spec/45_host_sequencer.md). -/

namespace Sys2Proof.Machine

/-! ### Digits (rule R200). -/

theorem isAsciiDigit_of_isDigit {ch : Char} (h : ch.isDigit = true) :
    isAsciiDigit (BitVec.ofNat 8 ch.toNat) = true := by
  simp only [Char.isDigit, Bool.and_eq_true, decide_eq_true_eq] at h
  obtain ⟨hlower, hupper⟩ := h
  have hlower' : 0x30 ≤ ch.toNat := hlower
  have hupper' : ch.toNat ≤ 0x39 := hupper
  simp only [isAsciiDigit, BitVec.toNat_ofNat, decide_eq_true_eq]
  omega

theorem isAsciiDigit_of_mem_asciiDigits {n : Nat} {b : Byte} (h : b ∈ asciiDigits n) : isAsciiDigit b = true := by
  obtain ⟨ch, hch, rfl⟩ := List.mem_map.mp h
  exact isAsciiDigit_of_isDigit (Nat.isDigit_of_mem_toDigits (by decide) (by decide) hch)

theorem length_asciiDigits_pos (n : Nat) : 0 < (asciiDigits n).length := by
  rw [asciiDigits, List.length_map]
  exact Nat.length_toDigits_pos

theorem length_asciiDigits_of_lt {n : Nat} (h : n < 10) : (asciiDigits n).length = 1 := by
  rw [asciiDigits, Nat.toDigits_of_lt_base h]
  rfl

theorem length_asciiThree (n : Nat) : (asciiThree n).length = 3 := by
  simp only [asciiThree, List.length_append, length_asciiDigits_of_lt (Nat.mod_lt _ (by decide : 0 < 10))]

theorem isAsciiDigit_of_mem_asciiThree {n : Nat} {b : Byte} (h : b ∈ asciiThree n) : isAsciiDigit b = true := by
  simp only [asciiThree, List.mem_append] at h
  obtain (h | h) | h := h <;> exact isAsciiDigit_of_mem_asciiDigits h

/-! ### The rounding of the third decimal (rule R200; log 20). -/

/-- The thousandths `n` are a rounding of `v`. -/
def RoundsTo (r : DecimalRounding) (v : ℝ) (n : ℤ) : Prop :=
  |(n : ℝ) - 1000 * v| < 1 ∧ (r = .nearest → |(n : ℝ) - 1000 * v| ≤ 1 / 2) ∧
    (r = .truncated → |(n : ℝ)| ≤ |1000 * v|)

theorem roundsTo_of_eq {r : DecimalRounding} {v : ℝ} {n : ℤ} (h : (n : ℝ) = 1000 * v) : RoundsTo r v n := by
  simp [RoundsTo, h]

section
variable {r : DecimalRounding} {v : ℝ}

theorem roundsTo_floor (hnearest : r = .nearest → Int.fract (1000 * v) ≤ 1 / 2) (htruncated : r = .truncated → 0 ≤ v) :
    RoundsTo r v ⌊1000 * v⌋ := by
  have hoff : |(⌊1000 * v⌋ : ℝ) - 1000 * v| = Int.fract (1000 * v) := by
    rw [abs_sub_comm, Int.self_sub_floor, Int.abs_fract]
  refine ⟨hoff.trans_lt (Int.fract_lt_one _), fun h => hoff.trans_le (hnearest h), fun h => ?_⟩
  have hv : 0 ≤ 1000 * v := mul_nonneg (by norm_num) (htruncated h)
  have hfloor : (0 : ℝ) ≤ ⌊1000 * v⌋ := by exact_mod_cast Int.floor_nonneg.mpr hv
  rw [abs_of_nonneg hfloor, abs_of_nonneg hv]
  exact Int.floor_le _

theorem roundsTo_floor_add_one (hfract : Int.fract (1000 * v) ≠ 0)
    (hnearest : r = .nearest → 1 / 2 ≤ Int.fract (1000 * v)) (htruncated : r = .truncated → v < 0) :
    RoundsTo r v (⌊1000 * v⌋ + 1) := by
  have hsum : (⌊1000 * v⌋ : ℝ) + Int.fract (1000 * v) = 1000 * v := Int.floor_add_fract _
  have hpos : 0 < Int.fract (1000 * v) := (Int.fract_nonneg _).lt_of_ne' hfract
  have hoff : |((⌊1000 * v⌋ + 1 : ℤ) : ℝ) - 1000 * v| = 1 - Int.fract (1000 * v) := by
    rw [abs_of_nonneg] <;> push_cast <;> linarith [Int.fract_lt_one (1000 * v)]
  refine ⟨by linarith, fun h => by linarith [hnearest h], fun h => ?_⟩
  have hv : 1000 * v < 0 := by linarith [htruncated h]
  have hceil : ((⌊1000 * v⌋ + 1 : ℤ) : ℝ) ≤ 0 := by exact_mod_cast Int.floor_lt.mpr (by exact_mod_cast hv)
  rw [abs_of_nonpos hceil, abs_of_neg hv]
  push_cast
  linarith [Int.lt_floor_add_one (1000 * v)]

end

/-- Whatever the host's rounding is, it takes the number's own thousandths or one of the two neighbours, the one its
rounding allows. -/
theorem roundsTo_thousandthsOf (r : DecimalRounding) (v : ℝ) : RoundsTo r v (thousandthsOf r v) := by
  unfold thousandthsOf
  split
  case isTrue hwhole => exact roundsTo_of_eq (by rw [← Int.self_sub_fract, hwhole, sub_zero])
  case isFalse hfract =>
    cases r with
    | nearest =>
      dsimp only
      split
      case isTrue hlower => exact roundsTo_floor (fun _ => hlower.le) nofun
      case isFalse hlower =>
        split
        case isTrue hupper => exact roundsTo_floor_add_one hfract (fun _ => hupper.le) nofun
        case isFalse hupper =>
          split
          · exact roundsTo_floor_add_one hfract (fun _ => not_lt.mp hlower) nofun
          · exact roundsTo_floor (fun _ => not_lt.mp hupper) nofun
    | truncated =>
      dsimp only
      split
      case isTrue hneg => exact roundsTo_floor_add_one hfract nofun (fun _ => hneg)
      case isFalse hneg => exact roundsTo_floor nofun (fun _ => not_lt.mp hneg)
    | platform =>
      dsimp only
      split
      · exact roundsTo_floor_add_one hfract nofun nofun
      · exact roundsTo_floor nofun nofun

/-- The sign and the size a number is written with are those of its thousandths. -/
theorem printed_value (r : DecimalRounding) (v : ℝ) :
    (if (printed r v).1 then -((printed r v).2 : ℝ) else ((printed r v).2 : ℝ)) = thousandthsOf r v := by
  simp only [printed, signOf, Nat.cast_natAbs, Int.cast_abs]
  obtain hneg | hzero | hpos := lt_trichotomy (thousandthsOf r v) 0
  · have hcast : (thousandthsOf r v : ℝ) < 0 := by exact_mod_cast hneg
    simp [hneg, hneg.ne, abs_of_neg hcast]
  · simp [hzero]
  · have hcast : (0 : ℝ) < thousandthsOf r v := by exact_mod_cast hpos
    simp [hpos.ne', hpos.not_gt, abs_of_pos hcast]

theorem writtenAs_printed (r : DecimalRounding) (v : ℝ) : WrittenAs r v (printed r v) := by
  obtain ⟨hoff, hnearest, htruncated⟩ := roundsTo_thousandthsOf r v
  rw [WrittenAs, printed_value]
  exact ⟨hoff, hnearest, fun h => by simpa [printed] using htruncated h⟩

theorem writtenAs_printedHeight (r : DecimalRounding) (z : ℚ) : WrittenAs r (z : ℝ) (printedHeight r z) := by
  unfold printedHeight
  split
  case isTrue hzero => simp [WrittenAs, hzero]
  case isFalse => exact writtenAs_printed r z

/-! ### The worked line (file 95, P3): radius -6, slice 45 of 360, height 0.1. -/

/-- To nearest, a number less than half a thousandth from a whole number of thousandths is written as that. -/
theorem thousandthsOf_nearest_of_abs_lt {v : ℝ} {n : ℤ} (h : |1000 * v - n| < 1 / 2) :
    thousandthsOf .nearest v = n := by
  obtain ⟨-, hnearest, -⟩ := roundsTo_thousandthsOf .nearest v
  have hoff := abs_le.mp (hnearest rfl)
  obtain ⟨hlower, hupper⟩ := abs_lt.mp h
  have habove : thousandthsOf .nearest v < n + 1 := by
    exact_mod_cast (by linarith : (thousandthsOf .nearest v : ℝ) < n + 1)
  have hbelow : n < thousandthsOf .nearest v + 1 := by
    exact_mod_cast (by linarith : (n : ℝ) < thousandthsOf .nearest v + 1)
  omega

theorem printed_nearest_of_abs_lt {v : ℝ} {n : ℤ} (hn : n ≠ 0) (h : |1000 * v - n| < 1 / 2) :
    printed .nearest v = (decide (n < 0), n.natAbs) := by
  rw [printed, signOf, thousandthsOf_nearest_of_abs_lt h, if_neg hn]

/-- `-6 * cos 45°` and `-6 * sin 45°` are `-3 * √2`, near `-4.243`. -/
theorem printed_neg_three_sqrt_two : printed .nearest (-6 * (√2 / 2)) = (true, 4243) := by
  have hlower : 1.4142 < √2 := Real.lt_sqrt_of_sq_lt (by norm_num)
  have hupper : √2 < 1.4143 := (Real.sqrt_lt' (by norm_num)).mpr (by norm_num)
  have hnear : |1000 * (-6 * (√2 / 2)) - ((-4243 : ℤ) : ℝ)| < 1 / 2 := by
    rw [abs_lt]
    constructor <;> push_cast <;> linarith
  exact printed_nearest_of_abs_lt (by decide) hnear

theorem printedHeight_tenth : printedHeight .nearest (mkRat 1 10) = (false, 100) := by
  have htenth : ((mkRat 1 10 : ℚ) : ℝ) = 1 / 10 := by norm_num [Rat.mkRat_eq_div]
  rw [printedHeight, if_neg (by decide), htenth]
  exact printed_nearest_of_abs_lt (n := 100) (by decide) (by norm_num)

/-- The point of the worked line. -/
def workedPoint : Point where
  radius := -6
  slice := 45
  total := 360
  height := mkRat 1 10

theorem angle_workedPoint : workedPoint.angle = Real.pi / 4 := by
  simp only [Point.angle, workedPoint]
  push_cast
  ring

theorem x_workedPoint : workedPoint.x = -6 * (√2 / 2) := by
  rw [Point.x, angle_workedPoint, Real.cos_pi_div_four]
  norm_num [workedPoint]

theorem y_workedPoint : workedPoint.y = -6 * (√2 / 2) := by
  rw [Point.y, angle_workedPoint, Real.sin_pi_div_four]
  norm_num [workedPoint]

/-- The worked line is the texts of -4243, -4243 and 100 thousandths. -/
theorem pointLine_workedPoint {c : Config} (hc : c.host.decimals = .nearest) :
    pointLine c workedPoint =
      fixedPoint (true, 4243) ++ [0x20#8] ++ fixedPoint (true, 4243) ++ [0x20#8] ++ fixedPoint (false, 100) ++
        c.host.newlineBytes := by
  rw [pointLine, hc, x_workedPoint, y_workedPoint, printed_neg_three_sqrt_two,
    show workedPoint.height = mkRat 1 10 from rfl, printedHeight_tenth]

/-- Settles O60: the digits, the rounding of each coordinate, and the worked line. -/
theorem coordinatesPrintWithThreeDecimals : Obligations.CoordinatesPrintWithThreeDecimals := by
  refine ⟨fun v => ?_, fun c p => ?_, fun c hc => ?_⟩
  · refine ⟨asciiDigits (v.2 / 1000), asciiThree (v.2 % 1000), rfl, length_asciiDigits_pos _, length_asciiThree _,
      fun b hb => ?_⟩
    exact (List.mem_append.mp hb).elim isAsciiDigit_of_mem_asciiDigits isAsciiDigit_of_mem_asciiThree
  · exact ⟨_, _, _, rfl, writtenAs_printed _ _, writtenAs_printed _ _, writtenAs_printedHeight _ _⟩
  · refine (pointLine_workedPoint hc).trans (congrArg (· ++ c.host.newlineBytes) ?_)
    decide

end Sys2Proof.Machine
end

section
/-! PROOFS. Which operations give a fault, and on what: `F_OPERAND` and `F_UNCONFIGURED` (rules R222, R224 of
spec/60_exceptions.md). -/

namespace Sys2Proof.Machine

/-! ### The outcome of an operation names the first broken precondition (rules R111, R232). -/

section
variable {i : Instr} {s : State} {w : Presentation}

/-- What an operation can answer: one of the first three faults, each by its own precondition, or, where those hold,
something else. -/
theorem exec_outcome_cases (i : Instr) (s : State) :
    (i.wellFormed s.config = false ∧ exec i s = .fault (.illegal s.ports)) ∨
    (i.wellFormed s.config = true ∧ operandOk i s = false ∧ exec i s = .fault (.operand s.ports)) ∨
    (i.wellFormed s.config = true ∧ operandOk i s = true ∧ axisReady i s = false ∧
      exec i s = .fault (.unconfigured s.ports)) ∨
    (i.wellFormed s.config = true ∧ operandOk i s = true ∧ axisReady i s = true ∧
      (exec i s = .fault (.protocol s.ports) ∨ exec i s = .refused .medianVariant ∨ ∃ t, exec i s = .next t)) := by
  cases hwf : i.wellFormed s.config with
  | false => exact .inl ⟨rfl, exec_of_not_wellFormed hwf⟩
  | true =>
    cases hoperand : operandOk i s with
    | false => exact .inr (.inl ⟨rfl, rfl, exec_of_illegal_operand hwf hoperand⟩)
    | true =>
      cases hready : axisReady i s with
      | false => exact .inr (.inr (.inl ⟨rfl, rfl, rfl, exec_of_unconfigured hwf hoperand hready⟩))
      | true =>
        refine .inr (.inr (.inr ⟨rfl, rfl, rfl, ?_⟩))
        cases hprotocol : protocolOk i s with
        | false => exact .inl (exec_of_protocol_broken hready hprotocol)
        | true =>
          cases hvariant : variantOk i s with
          | false => exact .inr (.inl (exec_of_median hwf hvariant))
          | true => exact .inr (.inr (exec_completes hwf hoperand hready hprotocol hvariant))

theorem exec_eq_operand_iff :
    exec i s = .fault (.operand w) ↔ i.wellFormed s.config = true ∧ operandOk i s = false ∧ s.ports = w := by
  rcases exec_outcome_cases i s with
    ⟨hwf, e⟩ | ⟨hwf, hoperand, e⟩ | ⟨-, hoperand, -, e⟩ | ⟨-, hoperand, -, e | e | ⟨t, e⟩⟩ <;> rw [e]
  · simp [hwf]
  · simp [hwf, hoperand]
  all_goals simp [hoperand]

theorem exec_eq_unconfigured_iff :
    exec i s = .fault (.unconfigured w) ↔
      i.wellFormed s.config = true ∧ operandOk i s = true ∧ axisReady i s = false ∧ s.ports = w := by
  rcases exec_outcome_cases i s with
    ⟨hwf, e⟩ | ⟨-, hoperand, e⟩ | ⟨hwf, hoperand, hready, e⟩ | ⟨-, -, hready, e | e | ⟨t, e⟩⟩ <;> rw [e]
  · simp [hwf]
  · simp [hoperand]
  · simp [hwf, hoperand, hready]
  all_goals simp [hready]

end

/-! ### The operands that break their precondition (rules R89, R115, R117 to R119). -/

theorem numFinite_eq_false_iff (w : Word) : numFinite w = false ↔ numExponent w = 255 := by simp [numFinite]

theorem pinsOk_eq_false_iff {s : State} {a : Axis} {sp dp : Pin} :
    pinsOk s a sp dp = false ↔
      sp ∈ s.config.absentPins ∨ dp ∈ s.config.absentPins ∨ sp = dp ∨
      ((s.axis a.other).configured = true ∧
        (sp = (s.axis a.other).stepPin ∨ sp = (s.axis a.other).dirPin ∨
          dp = (s.axis a.other).stepPin ∨ dp = (s.axis a.other).dirPin)) := by
  rw [← Bool.not_eq_true, pinsOk_iff, pinExists_iff, pinExists_iff]
  tauto

/-- A half-period that is defined is refused for its range alone (rule R117). -/
theorem legalHalfPeriod_eq_none_iff {c : Config} {a : Axis} {speed : Word} :
    legalHalfPeriod c a speed = none ↔
      ∀ hp, halfPeriodOf c a speed = some hp → hp = 0 ∨ 2 ^ c.tw ≤ hp := by
  unfold legalHalfPeriod
  cases halfPeriodOf c a speed with
  | none => simp
  | some hp =>
    simp only [ite_eq_right_iff, reduceCtorEq, imp_false, Option.some.injEq, forall_eq']
    omega

/-- A speed that is not positive needs no mention of its own: it has no half-period at all (rule R118). -/
theorem legalHalfPeriod_eq_none_iff_nonpos_or {c : Config} {a : Axis} {speed : Word} :
    legalHalfPeriod c a speed = none ↔
      numVal speed ≤ 0 ∨ ∀ hp, halfPeriodOf c a speed = some hp → hp = 0 ∨ 2 ^ c.tw ≤ hp := by
  rw [legalHalfPeriod_eq_none_iff, or_iff_right_of_imp]
  intro h hp hdefined
  simp [halfPeriodOf_of_nonpos h] at hdefined

theorem operandOk_setup_eq_false_iff {a : Axis} {sp dp : Pin} {rsv : BitVec 16} {speed : Word} {s : State} :
    operandOk (.setup a sp dp rsv speed) s = false ↔
      numFinite speed = false ∨ pinsOk s a sp dp = false ∨ legalHalfPeriod s.config a speed = none := by
  simp only [operandOk, Bool.and_eq_false_iff, Option.isSome_eq_false_iff, Option.isNone_iff_eq_none, or_assoc]

theorem operandOk_advance_eq_false_iff {a : Axis} {r : Word} {s : State} :
    operandOk (.advance a r) s = false ↔ numFinite r = false ∨ 2 ^ 31 - 1 < targetOf s.config a r := by
  simp only [operandOk, targetFits, Bool.and_eq_false_iff, decide_eq_false_iff_not, not_le]

theorem operandOk_of_not_setup_advance {i : Instr} (s : State)
    (hsetup : ∀ a sp dp rsv speed, i ≠ .setup a sp dp rsv speed) (hadvance : ∀ a r, i ≠ .advance a r) :
    operandOk i s = true := by
  cases i with
  | setup a sp dp rsv speed => exact absurd rfl (hsetup a sp dp rsv speed)
  | advance a r => exact absurd rfl (hadvance a r)
  | rearm | dir | freerun | sample | reserved | sampleAxisBit => rfl

/-- Settles O13: `F_OPERAND` is a well-formed operation with an illegal operand, and only SETUP and ADVANCE have
illegal operands. -/
theorem operandFaultCauses : Obligations.OperandFaultCauses := by
  refine ⟨fun a sp dp speed s => ?_, fun a r s => ?_, fun i s w hsetup hadvance h => ?_⟩
  · rw [exec_eq_operand_iff, operandOk_setup_eq_false_iff, numFinite_eq_false_iff, pinsOk_eq_false_iff,
      legalHalfPeriod_eq_none_iff_nonpos_or]
    simp only [Instr.wellFormed, beq_self_eq_true, true_and, and_true]
    tauto
  · rw [exec_eq_operand_iff, operandOk_advance_eq_false_iff, numFinite_eq_false_iff]
    simp [Instr.wellFormed]
  · obtain ⟨-, hillegal, -⟩ := exec_eq_operand_iff.mp h
    simp [operandOk_of_not_setup_advance s hsetup hadvance] at hillegal

/-- Settles O14: each of the four needs its axis configured, after its words are legal; SAMPLE needs no axis. -/
theorem unconfiguredAxisFaults : Obligations.UnconfiguredAxisFaults := by
  refine ⟨fun a s hconf => ⟨fun r => exec_advance_unconfigured hconf, exec_of_unconfigured rfl rfl hconf,
    fun level => exec_of_unconfigured rfl rfl hconf, exec_of_unconfigured rfl rfl hconf⟩, fun operand s w h => ?_⟩
  obtain ⟨-, -, hready, -⟩ := exec_eq_unconfigured_iff.mp h
  cases hready

end Sys2Proof.Machine
end

section
/-! PROOFS. A presentation packed as one number loses nothing (rule R80; the packing is log 13's). -/

namespace Sys2Proof.Machine

/-- The three ports fill the 68 bits of a packed number and no more, so `unpack` never refuses one. -/
theorem pack_lt (p : Presentation) : pack p < 2 ^ 68 := by
  have hcmd := p.cmd.isLt
  have ha := p.a.isLt
  have hb := p.b.isLt
  unfold pack
  omega

/-! Each port is read back from the packed number: the ports below it are lost by the division, the ports above it by
the width of the word. -/

theorem ofNat_pack_eq_cmd (p : Presentation) : BitVec.ofNat 4 (pack p) = p.cmd := by
  apply BitVec.eq_of_toNat_eq
  have hcmd := p.cmd.isLt
  rw [BitVec.toNat_ofNat, pack]
  omega

theorem ofNat_pack_div_eq_a (p : Presentation) : BitVec.ofNat 32 (pack p / 2 ^ 4) = p.a := by
  apply BitVec.eq_of_toNat_eq
  have hcmd := p.cmd.isLt
  have ha := p.a.isLt
  rw [BitVec.toNat_ofNat, pack]
  omega

theorem ofNat_pack_div_eq_b (p : Presentation) : BitVec.ofNat 32 (pack p / 2 ^ 36) = p.b := by
  apply BitVec.eq_of_toNat_eq
  have hcmd := p.cmd.isLt
  have ha := p.a.isLt
  have hb := p.b.isLt
  rw [BitVec.toNat_ofNat, pack]
  omega

@[simp] theorem unpack_pack (p : Presentation) : unpack (pack p) = .ok p := by
  rw [unpack, if_pos (pack_lt p), ofNat_pack_eq_cmd, ofNat_pack_div_eq_a, ofNat_pack_div_eq_b]

/-- Settles O4: every port is read back, and the 68 bits given to the decoder are all the bits of the packed number. -/
theorem packedPresentationsUnpack : Obligations.PackedPresentationsUnpack := fun p =>
  ⟨unpack_pack p, decodeTableWord_eq_some.mpr ⟨p, by rw [Nat.mod_eq_of_lt (pack_lt p), unpack_pack], rfl⟩⟩

end Sys2Proof.Machine
end
